-- ==== Sys2Proof/Word.lean ====
section
/-! DEFINITION. The word types of the OwlSender CORE: a byte of the message buffer, and a bit or a level of the line. -/

namespace Sys2Proof

/-- A byte of the message buffer: 8 bits, unsigned (R20). -/
abbrev Byte := BitVec 8

/-- A bit, a one-bit flag or a level of the line: `true` is 1, "high", carrier on (R27, D27). -/
abbrev Bit := Bool

end Sys2Proof
end

