-- ==== Sys2Proof/Config.lean ====
section
/-! DEFINITION. The parameters the spec leaves to the implementation (R7), with the values it takes for them. The protocol
constants of R8 are not parameters: they stand in Machine/Protocol.lean. -/

namespace Sys2Proof

/-- The parameters of R7. A machine carries them in its state, where no step writes them (log 4). -/
structure Config where
  /-- `W_RT`, the width in bits of the real-time power operand. -/
  wRt : Nat
  /-- `W_ACC`, the width in bits of the accumulated-energy operand. -/
  wAcc : Nat
  /-- `F_CLK_HZ`, the frequency of `CLK` in hertz: rational, as every frequency R7 allows is. -/
  fClkHz : ℚ
  /-- `T_HALF_CYCLES`, the `CLK` cycles in one half-bit. -/
  tHalf : Nat
deriving DecidableEq, Repr

/-- This spec's own values (R7): 32, 32, 1 000 000 Hz, 488 cycles. -/
def Config.spec : Config := { wRt := 32, wAcc := 32, fClkHz := 1000000, tHalf := 488 }

/-- The values R7 allows when wall-clock time is not in question: every width and `T_HALF_CYCLES` at least 1. -/
abbrev Config.Legal (c : Config) : Prop := 1 ≤ c.wRt ∧ 1 ≤ c.wAcc ∧ 1 ≤ c.tHalf

/-- 488 µs × `F_CLK_HZ` (R7). -/
def Config.halfBitCycles (c : Config) : ℚ := 488 * c.fClkHz / 1000000

/-- The frequencies R7 allows: 488 µs is a whole number of cycles, at least 1. -/
abbrev Config.LegalClock (c : Config) : Prop := ∃ n : Nat, 1 ≤ n ∧ c.halfBitCycles = n

/-- `F_CLK_HZ` is legal and `T_HALF_CYCLES` is 488 µs of it (R7): the condition under which cycles are wall-clock time (R102). -/
abbrev Config.RealTime (c : Config) : Prop := c.LegalClock ∧ c.halfBitCycles = c.tHalf

/-- The width of `CNT`: `max(1, ceil(log2(T_HALF_CYCLES)))` bits (R26). -/
def Config.cntWidth (c : Config) : Nat := max 1 (if c.tHalf ≤ 1 then 0 else (c.tHalf - 1).log2 + 1)

end Sys2Proof
end

