-- ==== Sys2Proof/Syntax.lean ====
section
/-! DEFINITION. The instructions: one constructor for each row of spec/opcode_table.json, the four host commands first and then
the fifteen internal operations, in the table's order. Readings are natural numbers, since the operand ports are unsigned and
their widths are parameters (R7, R75): a negative reading has no term (I4). -/

namespace Sys2Proof

/-- An instruction: a row of the opcode table with the operands its rule gives it. -/
inductive Instr where
  /-- SETUP: set the sensor identity (R171). -/
  | setup (id : Byte)
  /-- SEND: pack, checksum and transmit one frame (R172). -/
  | send (rt acc : Nat)
  /-- RSVD0: the reserved command code 0b00 (R173). -/
  | rsvd0
  /-- RSVD3: the reserved command code 0b11 (R173). -/
  | rsvd3
  /-- sendZero: one logical 0 on the line (R100). -/
  | sendZero
  /-- sendOne: one logical 1 on the line (R101). -/
  | sendOne
  /-- sendBit(v): the choice between the two (R103). -/
  | sendBit (v : Bit)
  /-- sendPreamble: the synchronisation run (R104). -/
  | sendPreamble
  /-- sendData(buffer, size): the payload (R105). -/
  | sendData (size : Nat)
  /-- sendPostamble: the terminator (R106). -/
  | sendPostamble
  /-- sendOregon(buffer, size): one frame (R107). -/
  | sendOregon (size : Nat)
  /-- sequencer-step / idle-low: one clock edge of the half-bit sequencer (R109). -/
  | sequencerStep
  /-- setType: the sensor-type constant (R130). -/
  | setType
  /-- setId(id): the device identifier (R131). -/
  | setId (id : Byte)
  /-- setConsumption(rt, acc): pack the two readings (R132). -/
  | setConsumption (rt acc : Nat)
  /-- scaledRealtime(rt) (R133). -/
  | scaledRealtime (rt : Nat)
  /-- scaledAccumulated(acc) (R134). -/
  | scaledAccumulated (acc : Nat)
  /-- Sum(count, buffer): the nibble sum (R151). -/
  | sum (count : Nat)
  /-- calculateAndSetChecksum(buffer): place the checksum (R152). -/
  | calculateAndSetChecksum
deriving DecidableEq, Repr

end Sys2Proof
end

