-- ==== Sys2Proof/WellFormed.lean ====
section
/-! DEFINITION. Which instructions the spec gives a form to: a reading fits its port (R75, R133, R134), a byte count stays within
the buffer (R151), and the frame's size is 13 (R105, R107). -/

namespace Sys2Proof

/-- A real-time reading fits `CMD_RT` (R75, R133). -/
abbrev FitsRt (c : Config) (rt : Nat) : Prop := rt < 2 ^ c.wRt

/-- An accumulated reading fits `CMD_ACC` (R75, R134). -/
abbrev FitsAcc (c : Config) (acc : Nat) : Prop := acc < 2 ^ c.wAcc

/-- The operands of an instruction are among the values its rule allows. -/
abbrev WellFormed (c : Config) (i : Instr) : Prop :=
  match i with
  | .setup _ => True
  | .send rt acc => FitsRt c rt ∧ FitsAcc c acc
  | .rsvd0 => True
  | .rsvd3 => True
  | .sendZero => True
  | .sendOne => True
  | .sendBit _ => True
  | .sendPreamble => True
  | .sendData size => size = 13
  | .sendPostamble => True
  | .sendOregon size => size = 13
  | .sequencerStep => True
  | .setType => True
  | .setId _ => True
  | .setConsumption rt acc => FitsRt c rt ∧ FitsAcc c acc
  | .scaledRealtime rt => FitsRt c rt
  | .scaledAccumulated acc => FitsAcc c acc
  | .sum count => count ≤ 13
  | .calculateAndSetChecksum => True

end Sys2Proof
end

