-- ==== Sys2Proof/Decode.lean ====
section
/-! DEFINITION. The decoder and the encoder. A command is the tuple of port values of R72; the packed command word `CW` of R76
writes the tuple as one number, and its bytes (lowest bits first, log 14) write the number as storage would hold it. Only the four
host commands have a word: the fifteen internal operations have no host encoding (opcode table), and how the sequencer picks them
stands in Machine/LineEncoder.lean. -/

namespace Sys2Proof

/-- The command tuple sampled at an acceptance edge (R72). -/
structure Command where
  /-- `CMD_OP`. -/
  op : BitVec 2
  /-- `CMD_ID`. -/
  id : Byte
  /-- `CMD_RT`. -/
  rt : Nat
  /-- `CMD_ACC`. -/
  acc : Nat
deriving DecidableEq, Repr

/-- Why bits are no command word. -/
inductive DecodeError where
  /-- The bytes are not as many as a command word has. -/
  | wrongLength
  /-- A bit above the last field of the word is 1. -/
  | bitsAboveWord
deriving DecidableEq, Repr

/-- The opcode map: every value of `CMD_OP` decodes to exactly one row (R73), and ignored fields are dropped (R72). -/
def decodeCommand (k : Command) : Instr :=
  if k.op = 0b01#2 then .setup k.id
  else if k.op = 0b10#2 then .send k.rt k.acc
  else if k.op = 0b00#2 then .rsvd0
  else .rsvd3

/-- The bits of a command word: 2 + 8 + `W_RT` + `W_ACC` (R76). -/
def Config.cwBits (c : Config) : Nat := 2 + 8 + c.wRt + c.wAcc

/-- The whole bytes a command word takes (log 14). -/
def Config.cwBytes (c : Config) : Nat := (c.cwBits + 7) / 8

/-- The fields of a command word: op at 1:0, id at 9:2, rt at 9+`W_RT`:10, acc above it (R76). -/
def unpackCW (c : Config) (w : Nat) : Command where
  op := BitVec.ofNat 2 w
  id := BitVec.ofNat 8 (w >>> 2)
  rt := (w >>> 10) % 2 ^ c.wRt
  acc := (w >>> (10 + c.wRt)) % 2 ^ c.wAcc

/-- The command word of a tuple (R76). -/
def packCW (c : Config) (k : Command) : Nat :=
  k.op.toNat + 2 ^ 2 * k.id.toNat + 2 ^ 10 * k.rt + 2 ^ (10 + c.wRt) * k.acc

/-- Decode a command word; a number with a bit above the word is refused by name. -/
def decodeWord (c : Config) (w : Nat) : Except DecodeError Instr :=
  if w < 2 ^ c.cwBits then .ok (decodeCommand (unpackCW c w)) else .error .bitsAboveWord

/-- The number whose bytes, lowest first, are these. -/
def natOfBytes : List Byte → Nat
  | [] => 0
  | b :: bs => b.toNat + 256 * natOfBytes bs

/-- The lowest bytes of a number, lowest first. -/
def bytesOfNat : Nat → Nat → List Byte
  | 0, _ => []
  | n + 1, w => BitVec.ofNat 8 w :: bytesOfNat n (w / 256)

/-- Decode the bytes of a command word: total on any bytes. -/
def decode (c : Config) (bs : List Byte) : Except DecodeError Instr :=
  if bs.length = c.cwBytes then decodeWord c (natOfBytes bs) else .error .wrongLength

/-- The tuple a host presents for an instruction, ignored fields 0 (R72, R78); none for an internal operation. -/
def commandOf (i : Instr) : Option Command :=
  match i with
  | .setup id => some { op := 0b01#2, id := id, rt := 0, acc := 0 }
  | .send rt acc => some { op := 0b10#2, id := 0#8, rt := rt, acc := acc }
  | .rsvd0 => some { op := 0b00#2, id := 0#8, rt := 0, acc := 0 }
  | .rsvd3 => some { op := 0b11#2, id := 0#8, rt := 0, acc := 0 }
  | .sendZero => none
  | .sendOne => none
  | .sendBit _ => none
  | .sendPreamble => none
  | .sendData _ => none
  | .sendPostamble => none
  | .sendOregon _ => none
  | .sequencerStep => none
  | .setType => none
  | .setId _ => none
  | .setConsumption _ _ => none
  | .scaledRealtime _ => none
  | .scaledAccumulated _ => none
  | .sum _ => none
  | .calculateAndSetChecksum => none

/-- The command word of an instruction (R76), none for an internal operation. -/
def encodeWord (c : Config) (i : Instr) : Option Nat := (commandOf i).map (packCW c)

/-- The bytes of an instruction's command word, none for an internal operation. -/
def encode (c : Config) (i : Instr) : Option (List Byte) := (encodeWord c i).map (bytesOfNat c.cwBytes)

/-- The instruction read from `nbits` bits `w` of the opcode table's numbering, the bits above them 0: the word is laid out as
bytes and given to the decoder. A row of no bits is no command word, and none is longer than the ten bytes of this spec's word. -/
def decodeTableWord (nbits w : Nat) : Option Instr :=
  if nbits = 0 ∨ 80 < nbits then none
  else (decode Config.spec (bytesOfNat Config.spec.cwBytes (w % 2 ^ nbits))).toOption

end Sys2Proof
end

