-- ==== Sys2Proof/Machine/State.lean ====
section
/-! DEFINITION. The machine's state as plain data. `Block` is the block itself: R35's list, element for element, and nothing R33
says is no state. `State` is the block together with what the host's form of a step, which takes a state and nothing else, needs
beside it: the parameters (R7) and the source of the port values (R33, R70, R78), the record of the line (R112, R183), and the value
an internal operation hands back. The block's own step takes the ports and the parameters as arguments: `blockStep` in
Machine/HostPort.lean. -/

namespace Sys2Proof.Machine

/-- The message buffer as the addresses that hold something else than 0x00, the value R35 gives every byte at reset; addresses
strictly rising. Its operations are in Machine/Ops.lean. -/
abbrev Memory := List Host.Cell

/-- `PHASE` (R24). -/
inductive Phase where
  /-- `IDLE`: Unconfigured, or Configured (idle). -/
  | idle
  /-- `TX`: Sending. -/
  | tx
deriving DecidableEq, Repr

/-- One segment of the line's record: a level and the `CLK` cycles it was held (R112). -/
structure Segment where
  /-- The level driven. -/
  level : Bit
  /-- The cycles it has been held. -/
  cycles : Nat
deriving DecidableEq, Repr

/-- The values on the input ports just before a rising edge (R70). -/
structure Ports where
  /-- `RST`. -/
  rst : Bit
  /-- `CMD_VALID`. -/
  cmdValid : Bit
  /-- `CMD_OP`. -/
  cmdOp : BitVec 2
  /-- `CMD_ID`. -/
  cmdId : Byte
  /-- `CMD_RT`. -/
  cmdRt : Nat
  /-- `CMD_ACC`. -/
  cmdAcc : Nat
  /-- `DBG_ADDR`: the debug output depends on it, no step does (R52, R180). -/
  dbgAddr : BitVec 4
deriving DecidableEq, Repr

/-- One line of a host command program (R78), or arbitrary port values for one edge (log 1). -/
inductive HostLine where
  /-- `RESET`: `RST` = 1 for one edge. -/
  | reset
  /-- `SETUP id`: presented until accepted. -/
  | setup (id : Byte)
  /-- `SEND rt, acc`: presented until accepted. -/
  | send (rt acc : Nat)
  /-- `RSVD op`: presented until accepted. -/
  | rsvd (op : BitVec 2)
  /-- `WAITIDLE`: `CMD_VALID` = 0 until an edge after which `CMD_READY` = 1. -/
  | waitIdle
  /-- `IDLE n`: `CMD_VALID` = 0 for `n` edges. -/
  | idle (n : Nat)
  /-- These port values, for one edge. -/
  | ports (p : Ports)
deriving DecidableEq, Repr

/-- The block: every element of R35. Ports, parameters and the values computed within one step are none of them (R33). -/
structure Block where
  /-- `BUF`, the 13-byte message buffer (R20). -/
  buf : Memory
  /-- `CONFIGURED` (R23). -/
  configured : Bit
  /-- `PHASE` (R24). -/
  phase : Phase
  /-- `SEG`, the segment being transmitted (R25). -/
  seg : BitVec 8
  /-- `CNT`, the half-bit timer (R26, log 5). -/
  cnt : Nat
  /-- `TX`, the line (R27). -/
  tx : Bit
  /-- `ERR_STATE`, sticky (R28). -/
  errState : Bit
  /-- `ERR_CMD`, sticky (R29). -/
  errCmd : Bit
deriving DecidableEq, Repr

/-- The machine: the block, and beside it the model's own fields. -/
structure State extends Block where
  /-- The parameters of R7, the argument `c` of every coming step of the block; no step writes them (log 4). -/
  cfg : Config
  /-- What the host has still to do: the source of the port values of every coming edge (log 1). -/
  host : List HostLine
  /-- The line's record, newest segment first (log 6). -/
  line : List Segment
  /-- The value the last internal operation run alone handed back; the block keeps none (R33, log 7). -/
  returned : Option Int
deriving DecidableEq, Repr

/-- Why the machine stops on an ill-formed instruction. No rule of the spec stops the block (R203). -/
inductive Fault where
  /-- Raised by `Sum`, `sendData` and `sendOregon` when run alone on more than 13 bytes: an address of `BUF` that does not exist
  (R50, R51). Safe: the block always uses 11 and 13 (R105, R151). -/
  | outsideBuffer (count : Nat)
deriving DecidableEq, Repr

/-- Why an instruction has no meaning. -/
inductive Refusal where
  /-- Raised by an arm of `exec` whose instruction has no meaning yet; no arm raises it now. Safe. -/
  | notModelled (mnemonic : String)
  /-- Raised by `SEND`, `setConsumption`, `scaledRealtime` and `scaledAccumulated` on a reading wider than its port: it has no
  encoding (R75, I4). Safe: no port can carry such a reading. -/
  | operandTooWide
deriving DecidableEq, Repr

/-- `ResetState`: every element of the block at its reset value (R35). -/
def Block.reset : Block where
  buf := []
  configured := false
  phase := .idle
  seg := 0#8
  cnt := 0
  tx := false
  errState := false
  errCmd := false

/-- The machine right after reset (R35), with this spec's parameters, a host that has nothing to do, and an empty record. -/
def State.reset : State where
  toBlock := Block.reset
  cfg := Config.spec
  host := []
  line := []
  returned := none

end Sys2Proof.Machine
end

