-- ==== Sys2Proof/Machine/Protocol.lean ====
section
/-! DEFINITION. The protocol constants of R8, named once (R8, I9, D23). -/

namespace Sys2Proof.Machine

/-- `BUF_LEN`, bytes of the message buffer. -/
def bufLen : Nat := 13

/-- `TYPE0`. -/
def type0 : Byte := 0x62#8

/-- `TYPE1`. -/
def type1 : Byte := 0x80#8

/-- `HALF_US`, the half-bit period in microseconds. -/
def halfUs : Nat := 488

/-- `BIT_US`, the bit period in microseconds. -/
def bitUs : Nat := 976

/-- `N_PRE`, preamble 1 bits. -/
def nPre : Nat := 10

/-- `N_DATA`, data bits. -/
def nData : Nat := 104

/-- `N_POST`, postamble 0 bits. -/
def nPost : Nat := 4

/-- `N_BITS`, bit periods in a frame. -/
def nBits : Nat := 118

/-- `N_SEG`, half-bit segments in a frame. -/
def nSeg : Nat := 236

/-- `RT_MUL`. -/
def rtMul : Nat := 497

/-- `RT_DIV1`. -/
def rtDiv1 : Nat := 500

/-- `RT_DIV2`. -/
def rtDiv2 : Nat := 16

/-- `ACC_MUL`. -/
def accMul : Nat := 223666

/-- `ACC_DIV`. -/
def accDiv : Nat := 1000

/-- `SUM_COUNT`, bytes summed. -/
def sumCount : Nat := 11

/-- `SUM_CORR`, subtracted from the nibble sum. -/
def sumCorr : Int := 2

end Sys2Proof.Machine
end

