-- ==== Sys2Proof/Machine/Ops.lean ====
section
/-! DEFINITION. The named operations of the machine: reading and writing the buffer (R10, R50), driving the line and holding it
(R10), the bits and segments of a frame (R79, R108), raising the two errors (R200, R201) and a reset edge (R220). -/

namespace Sys2Proof.Machine

/-! ### The buffer -/

/-- The byte at an address: 0x00 where none is listed, the value reset leaves (R35). -/
def Memory.read : Memory → Nat → Byte
  | [], _ => 0#8
  | (b, v) :: m, a => if b = a then v else Memory.read m a

/-- List a byte at its place, in place of one listed before. -/
def Memory.put : Memory → Nat → Byte → Memory
  | [], a, v => [(a, v)]
  | (b, w) :: m, a, v =>
    if a < b then (a, v) :: (b, w) :: m
    else if a = b then (a, v) :: m
    else (b, w) :: Memory.put m a v

/-- Take an address off the list. -/
def Memory.erase : Memory → Nat → Memory
  | [], _ => []
  | (b, w) :: m, a => if a = b then Memory.erase m a else (b, w) :: Memory.erase m a

/-- `BUF[a] <- v` (R10); a byte 0x00 is not listed. -/
def Memory.write (m : Memory) (a : Nat) (v : Byte) : Memory :=
  if v = 0#8 then m.erase a else m.put a v

/-- Several bytes at one edge (R59). -/
def Memory.writeAll : Memory → List (Nat × Byte) → Memory
  | m, [] => m
  | m, (a, v) :: l => Memory.writeAll (m.write a v) l

/-- The canonical form from an address on: rising addresses, each one of the buffer's, no byte 0x00. -/
def Memory.wfFrom : Nat → Memory → Bool
  | _, [] => true
  | lo, (a, v) :: m => decide (lo ≤ a) && decide (a < bufLen) && decide (v ≠ 0#8) && Memory.wfFrom (a + 1) m

/-- The canonical form of the buffer. -/
def Memory.wf (m : Memory) : Bool := Memory.wfFrom 0 m

/-! ### The line -/

/-- The record after the line has been held at a level for some more cycles: the newest segment grows when it has that level. -/
def holdLine (l : Bit) (n : Nat) : List Segment → List Segment
  | [] => [⟨l, n⟩]
  | g :: r => if g.level = l then ⟨g.level, g.cycles + n⟩ :: r else ⟨l, n⟩ :: g :: r

/-- A segment of the record begins, at the level of `TX` (R113). -/
def State.opened (s : State) : State := { s with line := ⟨s.tx, 0⟩ :: s.line }

/-- `drive(l)`: put a level on `TX`, opening a segment (R10, R113). -/
def State.drive (s : State) (l : Bit) : State := { s with tx := l }.opened

/-- Hold the line for some cycles (R10). -/
def State.hold (s : State) (n : Nat) : State := { s with line := holdLine s.tx n s.line }

/-- `drive(l); wait(HALF_US)`: one segment, `T_HALF_CYCLES` cycles long (R10, R12). -/
def State.segment (s : State) (l : Bit) : State := (s.drive l).hold s.cfg.tHalf

/-! ### The frame -/

/-- Bit `j` of a byte of the buffer, `BUF[i][j]` (R9, R54). -/
def Memory.bit (m : Memory) (i j : Nat) : Bit := (m.read i).getLsbD j

/-- Frame bit `b[n]`: preamble ones, the buffer lowest bit first, postamble zeros (R79). -/
def frameBit (m : Memory) (n : Nat) : Bit :=
  if n < nPre then true
  else if n < nPre + nData then m.bit ((n - nPre) / 8) ((n - nPre) % 8)
  else false

/-- The level of segment `k` of the buffer's frame (R108). -/
def level (m : Memory) (k : Nat) : Bit :=
  if k % 2 = 0 then frameBit m (k / 2) else !frameBit m (k / 2)

/-- The frame-level observation `W(BUF)` of a SEND, oldest segment first (R112). -/
def waveform (t : Nat) (m : Memory) : List Segment := (List.range nSeg).map fun k => ⟨level m k, t⟩

/-! ### Errors and reset -/

/-- `raise ErrState()`: set the sticky flag; nothing is saved and nothing is transferred (R200, R203). -/
def Block.raiseErrState (b : Block) : Block := { b with errState := true }

/-- `raise ErrCmd()`: set the sticky flag; nothing is saved and nothing is transferred (R201, R203). -/
def Block.raiseErrCmd (b : Block) : Block := { b with errCmd := true }

/-- `raise ErrState()` in the machine. -/
def State.raiseErrState (s : State) : State := { s with toBlock := s.toBlock.raiseErrState }

/-- `raise ErrCmd()` in the machine. -/
def State.raiseErrCmd (s : State) : State := { s with toBlock := s.toBlock.raiseErrCmd }

/-- An edge with `RST` = 1: every element of the block takes its reset value (R220); the parameters, the host, the record of the
line and the handed-back value are no elements of it (R33, R35). -/
def State.resetEdge (s : State) : State := { s with toBlock := Block.reset }.hold 1

end Sys2Proof.Machine
end

