-- ==== Sys2Proof/Machine/Operands.lean ====
section
/-! DEFINITION. What the operations compute from their operands: the nibbles of a byte (R10), the two scalings (R133, R134), the
packed bytes (R132) with their inverse (R136), the nibble sum (R151) and its packing (R152). All of it on exact integers (R9, D13). -/

namespace Sys2Proof.Machine

/-- `nib_lo(b)`, bits 3:0 (R10). -/
def nibLo (b : Byte) : Nat := b.toNat &&& 0xF

/-- `nib_hi(b)`, bits 7:4 (R10). -/
def nibHi (b : Byte) : Nat := (b.toNat >>> 4) &&& 0xF

/-- `scaledRealtime(rt)`: floor(rt * 497 / 500 / 16), exact (R133). -/
def scaleRealtime (rt : Nat) : Nat := rt * rtMul / rtDiv1 / rtDiv2

/-- `scaledAccumulated(acc)`: floor(acc * 223666 / 1000), exact (R134). -/
def scaleAccumulated (acc : Nat) : Nat := acc * accMul / accDiv

/-- A value as the byte a buffer write keeps: modulo 256 (R10). -/
def byteOf (v : Nat) : Byte := BitVec.ofNat 8 v

/-- The bytes `setConsumption` writes, from the scaled values, by R132's formulas. -/
def consumptionBytes (r a : Nat) : List (Nat × Byte) :=
  [(3, byteOf ((r &&& 0xF) <<< 4)),
   (4, byteOf ((r >>> 4) &&& 0xFF)),
   (5, byteOf (((r >>> 12) &&& 0xF) ||| ((a &&& 0xF) <<< 4))),
   (6, byteOf ((a >>> 4) &&& 0xFF)),
   (7, byteOf ((a >>> 12) &&& 0xFF)),
   (8, byteOf ((a >>> 20) &&& 0xFF)),
   (9, byteOf ((a >>> 28) &&& 0xFF)),
   (10, byteOf ((a >>> 36) &&& 0xFF))]

/-- The buffer after `setConsumption` (R132). -/
def packConsumption (rt acc : Nat) (m : Memory) : Memory :=
  m.writeAll (consumptionBytes (scaleRealtime rt) (scaleAccumulated acc))

/-- The real-time field of a packed buffer, `r'` (R136). -/
def extractRealtime (m : Memory) : Nat :=
  ((m.read 3).toNat >>> 4) ||| ((m.read 4).toNat <<< 4) ||| (((m.read 5).toNat &&& 0xF) <<< 12)

/-- The accumulated field of a packed buffer, `a'` (R136). -/
def extractAccumulated (m : Memory) : Nat :=
  ((m.read 5).toNat >>> 4) ||| ((m.read 6).toNat <<< 4) ||| ((m.read 7).toNat <<< 12) |||
    ((m.read 8).toNat <<< 20) ||| ((m.read 9).toNat <<< 28) ||| ((m.read 10).toNat <<< 36)

/-- The nibbles of the first bytes of the buffer, added up (R151). -/
def nibbleTotal (m : Memory) : Nat → Nat
  | 0 => 0
  | n + 1 => nibbleTotal m n + (nibLo (m.read n) + nibHi (m.read n))

/-- `Sum(count, BUF)`: the nibble sum less 2, a signed integer (R151). -/
def nibbleSum (count : Nat) (m : Memory) : Int := (nibbleTotal m count : Int) - sumCorr

/-- The twelve bits of a sum that the checksum keeps: `sum mod 2^12` (R152, D26). -/
def sumBits (sum : Int) : Nat := (sum % 4096).toNat

/-- The two checksum bytes of a sum, by R152's formulas. -/
def checksumBytes (sum : Int) : List (Nat × Byte) :=
  [(11, byteOf (((sumBits sum &&& 0xF) <<< 4) ||| ((sumBits sum >>> 8) &&& 0xF))),
   (12, byteOf ((sumBits sum >>> 4) &&& 0xF))]

/-- The buffer after `calculateAndSetChecksum`: bytes 0 to 10 summed, bytes 11 and 12 written (R150, R152). -/
def placeChecksum (m : Memory) : Memory := m.writeAll (checksumBytes (nibbleSum sumCount m))

/-- The buffer `BUF'` of a performed SEND: packed, then checksummed (R150, R172). -/
def messageOf (rt acc : Nat) (m : Memory) : Memory := placeChecksum (packConsumption rt acc m)

/-- The buffer after `setType` (R130). -/
def writeType (m : Memory) : Memory := m.writeAll [(0, type0), (1, type1)]

/-- The buffer after `setId` (R131). -/
def writeId (id : Byte) (m : Memory) : Memory := m.write 2 id

end Sys2Proof.Machine
end

