-- ==== Sys2Proof/Machine/Flags.lean ====
section
/-! DEFINITION. The outputs, functions of the block's state and of `DBG_ADDR` alone (R31, R52, R70, R181). The block has no arithmetic
flags (R30). -/

namespace Sys2Proof.Machine

/-- `BUSY`: 1 iff `PHASE` = `TX` (R31). -/
def Block.busy (b : Block) : Bit := decide (b.phase = .tx)

/-- `CMD_READY`: 1 iff `PHASE` = `IDLE` (R71, R181). -/
def Block.cmdReady (b : Block) : Bit := decide (b.phase = .idle)

/-- `STATUS[3:0]` = {`ERR_CMD`, `ERR_STATE`, `CONFIGURED`, `BUSY`} (R31, R181). -/
def Block.status (b : Block) : BitVec 4 :=
  BitVec.ofBool b.errCmd ++ BitVec.ofBool b.errState ++ BitVec.ofBool b.configured ++ BitVec.ofBool b.busy

/-- `DBG_DATA`: the buffer's byte at `DBG_ADDR`, 0x00 above address 12 (R52, R181). -/
def Block.dbgData (b : Block) (addr : BitVec 4) : Byte :=
  if addr.toNat ≤ 12 then b.buf.read addr.toNat else 0x00#8

/-- The output ports of R70. -/
structure Outputs where
  /-- `TX`. -/
  tx : Bit
  /-- `CMD_READY`. -/
  cmdReady : Bit
  /-- `STATUS`. -/
  status : BitVec 4
  /-- `DBG_DATA`. -/
  dbgData : Byte
deriving DecidableEq, Repr

/-- The outputs in a cycle (R181). -/
def Block.outputs (b : Block) (p : Ports) : Outputs where
  tx := b.tx
  cmdReady := b.cmdReady
  status := b.status
  dbgData := b.dbgData p.dbgAddr

end Sys2Proof.Machine
end

