-- ==== Sys2Proof/Machine/LineEncoder.lean ====
section
/-! DEFINITION. The line encoder and transmitter (spec 40_line_encoder.md). The line operations are given as the rules give them,
at the frame level: one run of an operation drives all its segments, each `T_HALF_CYCLES` cycles long (R6, log 8). The sequencer
step is the cycle level: one edge (R109). -/

namespace Sys2Proof.Machine

/-! ### The bit primitives and the parts of a frame -/

/-- low, then high (R100). -/
def State.zeroBit (s : State) : State := (s.segment false).segment true

/-- high, then low (R101). -/
def State.oneBit (s : State) : State := (s.segment true).segment false

/-- `if v = 1 then sendOne else sendZero` (R103). -/
def State.oneOrZero (s : State) (v : Bit) : State := if v = true then s.oneBit else s.zeroBit

/-- Some bits, one after the other. -/
def State.bits : State → List Bit → State
  | s, [] => s
  | s, v :: vs => State.bits (s.oneOrZero v) vs

/-- Ten consecutive 1 bits (R104). -/
def preambleBits : List Bit := List.replicate nPre true

/-- The bits of the first bytes of the buffer, bytes in address order and bit 0 first (R105). -/
def dataBits (m : Memory) (size : Nat) : List Bit :=
  (List.range size).flatMap fun i => (List.range 8).map fun j => m.bit i j

/-- Four consecutive 0 bits (R106). -/
def postambleBits : List Bit := List.replicate nPost false

/-- sendZero (R100). -/
def execSendZero (s : State) : Host.Outcome State Fault Refusal := .next s.zeroBit

/-- sendOne (R101). -/
def execSendOne (s : State) : Host.Outcome State Fault Refusal := .next s.oneBit

/-- sendBit(v) (R103). -/
def execSendBit (v : Bit) (s : State) : Host.Outcome State Fault Refusal := .next (s.oneOrZero v)

/-- sendPreamble (R104). -/
def execSendPreamble (s : State) : Host.Outcome State Fault Refusal := .next (s.bits preambleBits)

/-- sendData(buffer, size) (R105, size 13); sizes 0 to 12 run by the same loop, and a size beyond the buffer is an address that does
not exist (R50): both the model's choice (log 13). -/
def execSendData (size : Nat) (s : State) : Host.Outcome State Fault Refusal :=
  if size ≤ bufLen then .next (s.bits (dataBits s.buf size)) else .fault (.outsideBuffer size)

/-- sendPostamble (R106). -/
def execSendPostamble (s : State) : Host.Outcome State Fault Refusal := .next (s.bits postambleBits)

/-- sendOregon(buffer, size): preamble, then data, then postamble (R107, size 13); other sizes as sendData has them (log 13). -/
def execSendOregon (size : Nat) (s : State) : Host.Outcome State Fault Refusal :=
  if size ≤ bufLen then .next (((s.bits preambleBits).bits (dataBits s.buf size)).bits postambleBits)
  else .fault (.outsideBuffer size)

/-! ### The sequencer -/

/-- The half-bit sequencer step, its three branches: stay in the segment, next segment, end of segment 235 (R109). -/
def Block.sequence (tHalf : Nat) (b : Block) : Block :=
  if b.cnt < tHalf - 1 then { b with cnt := b.cnt + 1 }
  else if b.seg.toNat < nSeg - 1 then
    { b with seg := b.seg + 1#8, cnt := 0, tx := level b.buf (b.seg.toNat + 1) }
  else { b with phase := .idle, seg := 0#8, cnt := 0, tx := false }

/-- The sequencer step in the machine, before the edge's cycle is recorded: its last two branches drive the line. -/
def State.sequence (s : State) : State :=
  if s.cnt < s.cfg.tHalf - 1 then { s with toBlock := s.toBlock.sequence s.cfg.tHalf }
  else { s with toBlock := s.toBlock.sequence s.cfg.tHalf }.opened

/-- One rising edge of a frame (R109, R111). -/
def State.sequencerEdge (s : State) : State := s.sequence.hold 1

/-- One rising edge at which nothing changes (R180, "idle, nothing changes"). -/
def State.idleEdge (s : State) : State := s.hold 1

/-- sequencer-step / idle-low (R109); the sequencer runs only while `PHASE` = `TX`, so an edge in `IDLE` changes nothing
(R180, R208, log 10). -/
def execSequencerStep (s : State) : Host.Outcome State Fault Refusal :=
  match s.phase with
  | .tx => .next s.sequencerEdge
  | .idle => .next s.idleEdge

/-! ### Which operation the sequencer is in: the opcode table's internal encodings -/

/-- The bit primitive of frame bit `n`: sendOne where `b[n]` = 1, sendZero where it is 0 (R79, R100, R101). -/
def bitOp (m : Memory) (n : Nat) : Instr := if frameBit m n = true then .sendOne else .sendZero

/-- The part of the frame segment `k` lies in: 0 to 19 preamble, 20 to 227 data, 228 to 235 postamble (R81). -/
def partOp (k : Nat) : Option Instr :=
  if k < 2 * nPre then some .sendPreamble
  else if k < 2 * (nPre + nData) then some (.sendData bufLen)
  else if k < nSeg then some .sendPostamble
  else none

/-- The operations in progress, outermost first: none in `IDLE` (R103 to R109). -/
def State.activeOps (s : State) : List Instr :=
  match s.phase with
  | .idle => []
  | .tx =>
    [.sendOregon bufLen] ++ (partOp s.seg.toNat).toList ++
      [.sendBit (frameBit s.buf (s.seg.toNat / 2)), bitOp s.buf (s.seg.toNat / 2), .sequencerStep]

end Sys2Proof.Machine
end

