-- ==== Sys2Proof/Machine/Packer.lean ====
section
/-! DEFINITION. The message packer (spec 41_field_packing.md): the operations that write the message fields, and the two scalings.
Run alone, each works on `BUF` as it stands and takes no edge of its own (R110, R236, log 9); a value an operation hands back to
its caller is put into `returned` (R33, log 7). -/

namespace Sys2Proof.Machine

/-- setType (R130). -/
def execSetType (s : State) : Host.Outcome State Fault Refusal := .next { s with buf := writeType s.buf }

/-- setId(id) (R131). -/
def execSetId (id : Byte) (s : State) : Host.Outcome State Fault Refusal := .next { s with buf := writeId id s.buf }

/-- setConsumption(rt, acc) (R132); a reading wider than its port has no encoding (R75, I4). -/
def execSetConsumption (rt acc : Nat) (s : State) : Host.Outcome State Fault Refusal :=
  if FitsRt s.cfg rt ∧ FitsAcc s.cfg acc then .next { s with buf := packConsumption rt acc s.buf }
  else .refused .operandTooWide

/-- scaledRealtime(rt) (R133). -/
def execScaledRealtime (rt : Nat) (s : State) : Host.Outcome State Fault Refusal :=
  if FitsRt s.cfg rt then .next { s with returned := some (scaleRealtime rt : Int) } else .refused .operandTooWide

/-- scaledAccumulated(acc) (R134). -/
def execScaledAccumulated (acc : Nat) (s : State) : Host.Outcome State Fault Refusal :=
  if FitsAcc s.cfg acc then .next { s with returned := some (scaleAccumulated acc : Int) } else .refused .operandTooWide

end Sys2Proof.Machine
end

