-- ==== Sys2Proof/Machine/Checksum.lean ====
section
/-! DEFINITION. The checksum generator (spec 42_checksum.md), each operation run alone on `BUF` as it stands. -/

namespace Sys2Proof.Machine

/-- Sum(count, buffer) (R151); a count beyond the buffer is an address that does not exist (R50). -/
def execSum (count : Nat) (s : State) : Host.Outcome State Fault Refusal :=
  if count ≤ bufLen then .next { s with returned := some (nibbleSum count s.buf) } else .fault (.outsideBuffer count)

/-- calculateAndSetChecksum(buffer) (R152). -/
def execCalculateAndSetChecksum (s : State) : Host.Outcome State Fault Refusal :=
  .next { s with buf := placeChecksum s.buf }

end Sys2Proof.Machine
end

