-- ==== Sys2Proof/Machine/Commands.lean ====
section
/-! DEFINITION. The host commands (spec 43_commands.md). A command's meaning is one rising edge with `RST` = 0 and the command on
the port (R170, R180): accepted when `PHASE` = `IDLE`, and turned away, with the sequencer stepping instead, while a frame is
being sent (R175, log 11). -/

namespace Sys2Proof.Machine

/-- One edge with a command presented: its effect when it is accepted, the sequencer's step when a frame is being sent (R180). -/
def State.commandEdge (s : State) (effect : State → State) : State :=
  match s.phase with
  | .tx => s.sequencerEdge
  | .idle => (effect s).hold 1

/-- SETUP: setType, setId, `CONFIGURED` <- 1 (R171). -/
def Block.setup (id : Byte) (b : Block) : Block := { b with buf := writeId id (writeType b.buf), configured := true }

/-- The start of the frame of a buffer (R110, R172). -/
def Block.startFrame (m : Memory) (b : Block) : Block :=
  { b with buf := m, phase := .tx, seg := 0#8, cnt := 0, tx := level m 0 }

/-- SEND: ErrState before configuration (R200), else pack, checksum and start the frame (R172). -/
def Block.send (rt acc : Nat) (b : Block) : Block :=
  if b.configured = false then b.raiseErrState else b.startFrame (messageOf rt acc b.buf)

/-- SETUP's effect in the machine. -/
def State.setupEffect (id : Byte) (s : State) : State := { s with toBlock := s.toBlock.setup id }

/-- The start of a frame in the machine: it drives the line. -/
def State.startFrame (s : State) (m : Memory) : State := { s with toBlock := s.toBlock.startFrame m }.opened

/-- SEND's effect in the machine: a frame's start drives the line. -/
def State.sendEffect (rt acc : Nat) (s : State) : State :=
  if s.configured = false then { s with toBlock := s.toBlock.send rt acc }
  else { s with toBlock := s.toBlock.send rt acc }.opened

/-- SETUP (R171). -/
def execSetup (id : Byte) (s : State) : Host.Outcome State Fault Refusal :=
  .next (s.commandEdge (State.setupEffect id))

/-- SEND (R172); a reading wider than its port has no encoding (R75, I4). -/
def execSend (rt acc : Nat) (s : State) : Host.Outcome State Fault Refusal :=
  if FitsRt s.cfg rt ∧ FitsAcc s.cfg acc then .next (s.commandEdge (State.sendEffect rt acc))
  else .refused .operandTooWide

/-- RSVD0, the reserved code 0b00 (R173). -/
def execRsvd0 (s : State) : Host.Outcome State Fault Refusal := .next (s.commandEdge State.raiseErrCmd)

/-- RSVD3, the reserved code 0b11 (R173). -/
def execRsvd3 (s : State) : Host.Outcome State Fault Refusal := .next (s.commandEdge State.raiseErrCmd)

end Sys2Proof.Machine
end

