-- ==== Sys2Proof/Machine/Dispatch.lean ====
section
/-! DEFINITION. One arm per instruction. -/

namespace Sys2Proof.Machine

def exec (i : Instr) (s : State) : Host.Outcome State Fault Refusal :=
  match i with
  | .setup id => Sys2Proof.Machine.execSetup id s
  | .send rt acc => Sys2Proof.Machine.execSend rt acc s
  | .rsvd0 => Sys2Proof.Machine.execRsvd0 s
  | .rsvd3 => Sys2Proof.Machine.execRsvd3 s
  | .sendZero => Sys2Proof.Machine.execSendZero s
  | .sendOne => Sys2Proof.Machine.execSendOne s
  | .sendBit v => Sys2Proof.Machine.execSendBit v s
  | .sendPreamble => Sys2Proof.Machine.execSendPreamble s
  | .sendData size => Sys2Proof.Machine.execSendData size s
  | .sendPostamble => Sys2Proof.Machine.execSendPostamble s
  | .sendOregon size => Sys2Proof.Machine.execSendOregon size s
  | .sequencerStep => Sys2Proof.Machine.execSequencerStep s
  | .setType => Sys2Proof.Machine.execSetType s
  | .setId id => Sys2Proof.Machine.execSetId id s
  | .setConsumption rt acc => Sys2Proof.Machine.execSetConsumption rt acc s
  | .scaledRealtime rt => Sys2Proof.Machine.execScaledRealtime rt s
  | .scaledAccumulated acc => Sys2Proof.Machine.execScaledAccumulated acc s
  | .sum count => Sys2Proof.Machine.execSum count s
  | .calculateAndSetChecksum => Sys2Proof.Machine.execCalculateAndSetChecksum s

end Sys2Proof.Machine
end

