-- ==== Sys2Proof/Machine/HostPort.lean ====
section
/-! DEFINITION. The input ports and the host that drives them: which values stand on the ports before an edge (R70, R78), what the
edge does with them (R71, R180), and what the host has left to do after it (R78). -/

namespace Sys2Proof.Machine

/-- No reset and no command; also what stands on the ports when the host has nothing to do (log 1). -/
def Ports.quiet : Ports :=
  { rst := false, cmdValid := false, cmdOp := 0#2, cmdId := 0#8, cmdRt := 0, cmdAcc := 0, dbgAddr := 0#4 }

/-- A command presented on the port. -/
def Ports.present (k : Command) : Ports :=
  { Ports.quiet with cmdValid := true, cmdOp := k.op, cmdId := k.id, cmdRt := k.rt, cmdAcc := k.acc }

/-- The lines still to be carried out: `IDLE 0` keeps `CMD_VALID` = 0 for no edge at all (R78, log 2). -/
def pendingLines : List HostLine → List HostLine
  | .idle 0 :: l => pendingLines l
  | l => l

/-- The command a line presents until it is accepted, ignored fields 0 (R78). -/
def HostLine.command (l : HostLine) : Option Command :=
  match l with
  | .reset => none
  | .setup id => some { op := 0b01#2, id := id, rt := 0, acc := 0 }
  | .send rt acc => some { op := 0b10#2, id := 0#8, rt := rt, acc := acc }
  | .rsvd op => some { op := op, id := 0#8, rt := 0, acc := 0 }
  | .waitIdle => none
  | .idle _ => none
  | .ports _ => none

/-- The port values of a line (R78). What R78 does not say of them is the model's choice: `CMD_VALID` is 0 at a `RESET` line's edge
(R223, log 3), and 0 stands in `DBG_ADDR` throughout and in the command fields while `CMD_VALID` = 0 (log 22). -/
def HostLine.drives (l : HostLine) : Ports :=
  match l with
  | .reset => { Ports.quiet with rst := true }
  | .setup id => .present { op := 0b01#2, id := id, rt := 0, acc := 0 }
  | .send rt acc => .present { op := 0b10#2, id := 0#8, rt := rt, acc := acc }
  | .rsvd op => .present { op := op, id := 0#8, rt := 0, acc := 0 }
  | .waitIdle => .quiet
  | .idle _ => .quiet
  | .ports p => p

/-- The values on the input ports just before the next edge. -/
def State.ports (s : State) : Ports :=
  match pendingLines s.host with
  | [] => .quiet
  | l :: _ => l.drives

/-- The command tuple on the ports (R72): an operand port carries as many bits as it is wide (R70, log 12). -/
def Ports.command (c : Config) (p : Ports) : Command :=
  { op := p.cmdOp, id := p.cmdId, rt := p.cmdRt % 2 ^ c.wRt, acc := p.cmdAcc % 2 ^ c.wAcc }

/-- A command is accepted at an edge: `RST` = 0, `CMD_VALID` = 1 and `CMD_READY` = 1 just before it (R71). -/
def Block.accepts (b : Block) (p : Ports) : Bool := !p.rst && p.cmdValid && b.cmdReady

/-- A command is accepted at the next edge. -/
def State.accepts (s : State) : Bool := s.toBlock.accepts s.ports

/-- An accepted command, by its opcode (R180). -/
def Block.command (k : Command) (b : Block) : Block :=
  if k.op = 0b01#2 then b.setup k.id
  else if k.op = 0b10#2 then b.send k.rt k.acc
  else b.raiseErrCmd

/-- `step(s, in)` of R180, the block's own step: the parameters `c` and the port values `p` are its arguments, no state (R33). -/
def blockStep (c : Config) (p : Ports) (b : Block) : Block :=
  if p.rst = true then Block.reset
  else
    match b.phase with
    | .tx => b.sequence c.tHalf
    | .idle => if p.cmdValid = true then b.command (p.command c) else b

/-- The block after one edge for each of these inputs, in order (R180). -/
def blockRun (c : Config) (ins : List Ports) (b : Block) : Block := ins.foldl (fun b p => blockStep c p b) b

/-- What an edge does (R180). -/
inductive EdgeAction where
  /-- `RST` = 1 (R220). -/
  | reset
  /-- The sequencer's step, or the accepted command. -/
  | run (i : Instr)
  /-- Idle, nothing changes. -/
  | idle
deriving DecidableEq, Repr

/-- The choice of R180, `step(s, in)` on the sampled inputs `p`: reset first, then a frame in progress, then a command, else
nothing. -/
def State.fetch (s : State) (p : Ports) : EdgeAction :=
  if p.rst = true then .reset
  else
    match s.phase with
    | .tx => .run .sequencerStep
    | .idle => if p.cmdValid = true then .run (decodeCommand (p.command s.cfg)) else .idle

/-- What the host has left after an edge from `s` to a state in phase `after` (R78). -/
def hostAfter (s : State) (after : Phase) : List HostLine :=
  match pendingLines s.host with
  | [] => []
  | .reset :: r => r
  | .setup id :: r => if s.accepts then r else .setup id :: r
  | .send rt acc :: r => if s.accepts then r else .send rt acc :: r
  | .rsvd op :: r => if s.accepts then r else .rsvd op :: r
  | .waitIdle :: r => if after = .idle then r else .waitIdle :: r
  | .idle n :: r => .idle (n - 1) :: r
  | .ports _ :: r => r

/-- The state after an edge from `s`, with the host's list moved on. -/
def State.hostFrom (t s : State) : State := { t with host := hostAfter s t.phase }

/-! ### Command programs -/

/-- The pseudo-instruction for construction with (pin, sensorId); the pin is dropped (R5, R78). -/
def constructLines (id : Byte) : List HostLine := [.reset, .setup id]

/-- The pseudo-instruction for `setup(pin, sensorId)` (R78). -/
def setupLines (id : Byte) : List HostLine := [.setup id]

/-- The pseudo-instruction for `send(realtimeWatts, accumulatedWattHours)` (R78). -/
def sendLines (rt acc : Nat) : List HostLine := [.send rt acc, .waitIdle]

/-- The operands of a line are among the values R78 allows. -/
abbrev HostLine.Fits (c : Config) (l : HostLine) : Prop :=
  match l with
  | .reset => True
  | .setup _ => True
  | .send rt acc => FitsRt c rt ∧ FitsAcc c acc
  | .rsvd op => op = 0b00#2 ∨ op = 0b11#2
  | .waitIdle => True
  | .idle _ => True
  | .ports p => FitsRt c p.cmdRt ∧ FitsAcc c p.cmdAcc

/-- The line resets the block. -/
def HostLine.resets (l : HostLine) : Bool := l.drives.rst

/-- The command word a line presents (R76, R78). -/
def HostLine.word (c : Config) (l : HostLine) : Option Nat := l.command.map (packCW c)

end Sys2Proof.Machine
end

