-- ==== Sys2Proof/Machine/Step.lean ====
section
/-! DEFINITION. One rising edge of `CLK` (R180). -/

namespace Sys2Proof.Machine

/-- One rising edge: reset, an instruction, or nothing (R180), after which the host moves on (R78). -/
def step (s : State) : Host.Outcome State Fault Refusal :=
  match s.fetch s.ports with
  | .reset => .next (s.resetEdge.hostFrom s)
  | .idle => .next (s.idleEdge.hostFrom s)
  | .run i =>
    match exec i s with
    | .next t => .next (t.hostFrom s)
    | .fault f => .fault f
    | .refused r => .refused r

/-- `s` with the command word `w` on the port at the next edge (`RST` = 0, `CMD_VALID` = 1) and the block able to accept it; the
bits of `w` above `nbits` are 0. The host has the word's port values to drive first, and goes on with its list after (log 15). -/
def State.withFetchWord (s : State) (nbits w : Nat) : State :=
  { s with phase := .idle, host := .ports (.present (unpackCW s.cfg (w % 2 ^ nbits))) :: s.host }

end Sys2Proof.Machine
end

