-- ==== Sys2Proof/Machine/Observe.lean ====
section
/-! DEFINITION. What is observed of a run (R112, R113, R183), wall-clock time (R7, R102), and the command-level abstraction of the
block (R182). None of it is read by a step. -/

namespace Sys2Proof.Machine

/-! ### The line -/

/-- The levels of a segment, one for each cycle it was held. -/
def Segment.cycleLevels (g : Segment) : List Bit := List.replicate g.cycles g.level

/-- The value of `TX` after every edge recorded, oldest first (R183). -/
def txHistory (line : List Segment) : List Bit := line.reverse.flatMap Segment.cycleLevels

/-- How often the level changes along a list of levels, from a level before it. -/
def levelChanges : Bit → List Bit → Nat
  | _, [] => 0
  | b, l :: ls => (if b = l then 0 else 1) + levelChanges l ls

/-- The levels driven in one frame: its 236 segments and the final low (R113). -/
def frameDrives (m : Memory) : List Bit := (List.range nSeg).map (level m) ++ [false]

/-- The level changes on `TX` in one frame, the rise into it and the final fall included (R113). -/
def frameEdges (m : Memory) : Nat := levelChanges false (frameDrives m)

/-- Cycles of `CLK` as microseconds (R7). -/
def microsOf (c : Config) (cycles : Nat) : ℚ := cycles * 1000000 / c.fClkHz

/-! ### The command level (R182) -/

/-- The abstract state of the command level (R182). -/
structure Abs where
  /-- `BUF`. -/
  buf : Memory
  /-- `CONFIGURED`. -/
  configured : Bit
  /-- `ERR_STATE`. -/
  errState : Bit
  /-- `ERR_CMD`. -/
  errCmd : Bit
deriving DecidableEq, Repr

/-- What a state is at the command level. -/
def State.abs (s : State) : Abs :=
  { buf := s.buf, configured := s.configured, errState := s.errState, errCmd := s.errCmd }

/-- What the command level says of an accepted command: the abstract state, the waveform, and the distance to the next edge that
can accept a command (R182). -/
structure CommandResult where
  /-- `σ'`. -/
  after : Abs
  /-- `W`. -/
  wave : List Segment
  /-- `d`. -/
  distance : Nat
deriving DecidableEq, Repr

/-- The table of R182. -/
def commandLevel (c : Config) (x : Abs) (k : Command) : CommandResult :=
  if k.op = 0b01#2 then
    { after := { x with buf := writeId k.id (writeType x.buf), configured := true }, wave := [], distance := 1 }
  else if k.op = 0b10#2 then
    if x.configured = true then
      { after := { x with buf := messageOf k.rt k.acc x.buf }
        wave := waveform c.tHalf (messageOf k.rt k.acc x.buf)
        distance := nSeg * c.tHalf + 1 }
    else { after := { x with errState := true }, wave := [], distance := 1 }
  else { after := { x with errCmd := true }, wave := [], distance := 1 }

/-! ### Runs -/

/-- Some edges, one after the other, to the first stop. -/
def runFor : Nat → State → Host.Outcome State Fault Refusal
  | 0, s => .next s
  | n + 1, s =>
    match step s with
    | .next t => runFor n t
    | .fault f => .fault f
    | .refused r => .refused r

/-- The condition that ends a run (R183): every line has been carried out, `PHASE` = `IDLE`, and so `CMD_VALID` = 0, since the
host has no line left to present a command with. It stays true at later edges: the end is the first edge after which it holds. -/
def State.programDone (s : State) : Bool := decide (pendingLines s.host = []) && s.cmdReady

/-- The start of a run of a program: the host has its lines to carry out, and nothing is recorded yet. The block's own state is as
it stands (R36). -/
def State.startRun (s : State) (program : List HostLine) : State := { s with host := program, line := [] }

/-- The state after the first edge after which the program is done, if one of the next `fuel` edges is that edge (R183). -/
def runToEnd : Nat → State → Option State
  | 0, _ => none
  | fuel + 1, s =>
    match step s with
    | .next t => if t.programDone = true then some t else runToEnd fuel t
    | .fault _ => none
    | .refused _ => none

/-- An error flag rises between two states (R205). -/
def errorRises (s t : State) : Bool := (!s.errState && t.errState) || (!s.errCmd && t.errCmd)

/-- An error flag rises at one of the next edges: what makes a run a faulted run (R205), whatever comes after. -/
def errorRisesIn : Nat → State → Bool
  | 0, _ => false
  | n + 1, s =>
    match step s with
    | .next t => errorRises s t || errorRisesIn n t
    | .fault _ => false
    | .refused _ => false

/-- What is observed of a run (R183), and whether it is a faulted run (R205). -/
structure Observation where
  /-- The state at its end. -/
  final : State
  /-- `TX` after every edge of the run. -/
  txs : List Bit
  /-- `STATUS` at its end. -/
  status : BitVec 4
  /-- `DBG_DATA` at its end, at every `DBG_ADDR`. -/
  dbg : List Byte
  /-- The run is a faulted run: a flag rose at one of its edges, even if a later reset cleared it (R205, log 16). -/
  faulted : Bool
deriving DecidableEq, Repr

/-- What is observed of a run from a start, the record then empty, to a state it has come to (R183, R205). -/
def State.observe (start t : State) : Observation where
  final := t
  txs := txHistory t.line
  status := t.status
  dbg := (List.range 16).map fun a => t.dbgData (BitVec.ofNat 4 a)
  faulted := errorRisesIn (txHistory t.line).length start

/-- The observation of a whole run: a program from its first edge to its end, none where the end is not among the first `fuel`
edges (R183). -/
def observeRun (fuel : Nat) (program : List HostLine) (s : State) : Option Observation :=
  (runToEnd fuel (s.startRun program)).map (s.startRun program).observe

end Sys2Proof.Machine
end

