-- ==== Sys2Proof/Safety.lean ====
section
/-! DEFINITION. What a run of the block keeps true (R37), and which states belong to a faulted run (R205, I1, I5). -/

namespace Sys2Proof.Machine

/-- The invariants of R37, with the parameters legal (R7), the buffer in its canonical form, and the line's record in agreement
with `TX`. -/
structure State.Inv (s : State) : Prop where
  /-- The parameters are among the values R7 allows. -/
  legal : s.cfg.Legal
  /-- The buffer is in canonical form: its addresses are 0 to 12 (R20, R50). -/
  canonical : s.buf.wf = true
  /-- R37 (1). -/
  idle : s.phase = .idle → s.tx = false ∧ s.seg = 0#8 ∧ s.cnt = 0
  /-- R37 (2). -/
  sending : s.phase = .tx → s.configured = true ∧ s.seg.toNat ≤ 235 ∧ s.cnt ≤ s.cfg.tHalf - 1
  /-- R37 (3). -/
  typed : s.configured = true → s.buf.read 0 = 0x62#8 ∧ s.buf.read 1 = 0x80#8
  /-- R37 (4). -/
  blank : s.configured = false → ∀ a, s.buf.read a = 0x00#8
  /-- R37 (5). -/
  zeroNibbles : nibLo (s.buf.read 3) = 0 ∧ nibHi (s.buf.read 12) = 0
  /-- R37 (6). -/
  summed : s.phase = .tx → ∀ p ∈ checksumBytes (nibbleSum 11 s.buf), s.buf.read p.1 = p.2
  /-- R37 (7). -/
  levelled : s.phase = .tx → s.tx = level s.buf s.seg.toNat
  /-- The newest segment of the record has the level of `TX` (the model's own, log 6). -/
  recorded : ∀ g ∈ s.line.head?, g.level = s.tx

/-- One of the two errors has been raised since the last reset, so the run the state is of is a faulted run (R205, I1, I5, log 16).
A run that was faulted before its last reset is told by `errorRisesIn`, which no reset undoes. -/
def State.faulted (s : State) : Bool := s.errState || s.errCmd

/-- None of the next edges is a reset edge (R111). -/
def State.NoResetFor : Nat → State → Prop
  | 0, _ => True
  | n + 1, s => s.ports.rst = false ∧ ∀ t, step s = .next t → State.NoResetFor n t

/-- No line of the host's list resets the block, so that no edge does (`noResetFor_of_noReset`). -/
abbrev State.NoReset (s : State) : Prop := ∀ l ∈ s.host, l.resets = false

/-- The block is idle and its line low, as every idle state of a run is (R24, R27, R37 (1)). -/
abbrev State.Quiet (s : State) : Prop := s.phase = .idle ∧ s.tx = false ∧ s.seg = 0#8 ∧ s.cnt = 0

/-- The frame has just started: the state right after the accepting edge of a SEND (R110). -/
abbrev State.FrameStart (s : State) : Prop := s.phase = .tx ∧ s.seg = 0#8 ∧ s.cnt = 0 ∧ s.tx = true

end Sys2Proof.Machine
end

