-- ==== Sys2Proof/Certificates/Slice0/Obligations.lean ====
section
/-! DEFINITION. The statements for the provers. Each docstring names the rule it comes from. A frame is written
`t = { s with … }`: every field not named is as before, the buffer included; where the buffer is named, a clause says what it reads
at every address outside the bytes stored. The record `line` and the value `returned` are the model's own fields (log 6, log 7): a
frame leaves them out of what it says of the block. -/

open Sys2Proof Sys2Proof.Machine

/-! ### Encodings -/

/-- R76, R78: a well-formed host command, written as the bytes of its command word, decodes to itself, at every operand width. -/
def Obligations.DecodeOfEncodeIsTheCommand : Prop :=
  ∀ (c : Config) (i : Instr) (bs : List Byte), WellFormed c i → encode c i = some bs → decode c bs = .ok i

/-- R73, R76: every number of `2 + 8 + W_RT + W_ACC` bits decodes to a well-formed host command, whose own word has the same
opcode bits and decodes to the same command; a number with a higher bit is refused by name. -/
def Obligations.EveryCommandWordDecodes : Prop :=
  ∀ (c : Config) (w : Nat),
    (w < 2 ^ c.cwBits →
      ∃ i w', decodeWord c w = .ok i ∧ WellFormed c i ∧ encodeWord c i = some w' ∧ w' % 4 = w % 4 ∧ decodeWord c w' = .ok i) ∧
    (2 ^ c.cwBits ≤ w → decodeWord c w = .error .bitsAboveWord)

/-- R73: the opcode map, all four values of `CMD_OP`. -/
def Obligations.OpcodeMapIsTotal : Prop :=
  ∀ k : Command,
    (k.op = 0b00#2 ∧ decodeCommand k = .rsvd0) ∨ (k.op = 0b01#2 ∧ decodeCommand k = .setup k.id) ∨
    (k.op = 0b10#2 ∧ decodeCommand k = .send k.rt k.acc) ∨ (k.op = 0b11#2 ∧ decodeCommand k = .rsvd3)

/-- R76 and the command words of programs P1, P2 and P4 in 95_test_vectors.md. -/
def Obligations.SpecCommandWordsDecode : Prop :=
  decodeWord Config.spec 0x0000000000000000049 = .ok (.setup 0x12#8) ∧
  decodeWord Config.spec 0x000030D4000000FA002 = .ok (.send 1000 50000) ∧
  decodeWord Config.spec 0x002625A000003FFFC02 = .ok (.send 65535 10000000) ∧
  decodeWord Config.spec 0x0000000000000000003 = .ok .rsvd3 ∧
  decodeWord Config.spec 0x0000000000000000000 = .ok .rsvd0

/-- R72, R71: a field its command ignores has no effect on the edge, whatever it holds; no command field has where no command is
accepted; and `DBG_ADDR` never has. -/
def Obligations.IgnoredFieldsHaveNoEffect : Prop :=
  ∀ (s : State) (p q : Ports) (r : List HostLine),
    p.rst = q.rst → p.cmdValid = q.cmdValid →
    (s.toBlock.accepts p = true → p.cmdOp = q.cmdOp ∧
      (p.cmdOp = 0b01#2 → p.cmdId = q.cmdId) ∧ (p.cmdOp = 0b10#2 → p.cmdRt = q.cmdRt ∧ p.cmdAcc = q.cmdAcc)) →
    step { s with host := .ports p :: r } = step { s with host := .ports q :: r }

/-! ### Host commands -/

/-- R171: an accepted SETUP writes bytes 0 to 2 and `CONFIGURED`, and nothing else of the block changes. -/
def Obligations.SetupConfiguresIdentity : Prop :=
  ∀ (s : State) (id : Byte), s.phase = .idle →
    ∃ t, exec (.setup id) s = .next t ∧
      t = { s with buf := t.buf, configured := true, line := t.line } ∧
      t.buf.read 0 = 0x62#8 ∧ t.buf.read 1 = 0x80#8 ∧ t.buf.read 2 = id ∧
      ∀ a, a ≠ 0 → a ≠ 1 → a ≠ 2 → t.buf.read a = s.buf.read a

/-- R171, W7: a second SETUP fully replaces the first, whatever the first identifier was. -/
def Obligations.SetupReplacesEarlierSetup : Prop :=
  ∀ (s : State) (id id' : Byte), s.phase = .idle → s.buf.wf = true →
    ∃ t u v, exec (.setup id) s = .next t ∧ exec (.setup id') t = .next u ∧ exec (.setup id') s = .next v ∧
      u = { v with line := u.line }

/-- R172, R110, R132, R152: an accepted SEND in the Configured state writes bytes 3 to 12 by the two rules' formulas and starts the
frame; nothing else of the block changes. `r` and `a` are the scaled readings, `v` the twelve checksum bits of the new bytes 0 to 10. -/
def Obligations.SendPacksChecksumsAndStartsFrame : Prop :=
  ∀ (s : State) (rt acc : Nat), s.phase = .idle → s.configured = true → rt < 2 ^ s.cfg.wRt → acc < 2 ^ s.cfg.wAcc →
    ∃ t, exec (.send rt acc) s = .next t ∧
      t = { s with buf := t.buf, phase := .tx, seg := 0#8, cnt := 0, tx := true, line := t.line } ∧
      (∀ a, a < 3 ∨ 12 < a → t.buf.read a = s.buf.read a) ∧
      (let r := rt * 497 / 500 / 16
       let a := acc * 223666 / 1000
       t.buf.read 3 = BitVec.ofNat 8 ((r % 16) * 16) ∧
       t.buf.read 4 = BitVec.ofNat 8 (r / 2 ^ 4) ∧
       t.buf.read 5 = BitVec.ofNat 8 (r / 2 ^ 12 % 16 + (a % 16) * 16) ∧
       t.buf.read 6 = BitVec.ofNat 8 (a / 2 ^ 4) ∧
       t.buf.read 7 = BitVec.ofNat 8 (a / 2 ^ 12) ∧
       t.buf.read 8 = BitVec.ofNat 8 (a / 2 ^ 20) ∧
       t.buf.read 9 = BitVec.ofNat 8 (a / 2 ^ 28) ∧
       t.buf.read 10 = BitVec.ofNat 8 (a / 2 ^ 36)) ∧
      (let v := BitVec.ofInt 12 (((List.range 11).map fun i => (t.buf.read i).toNat % 16 + (t.buf.read i).toNat / 16).sum - 2)
       t.buf.read 11 = v.extractLsb' 0 4 ++ v.extractLsb' 8 4 ∧
       t.buf.read 12 = 0#4 ++ v.extractLsb' 4 4)

/-- R200, R172: a SEND accepted while `CONFIGURED` = 0 sets `ERR_STATE`, and nothing else of the block changes. -/
def Obligations.SendBeforeSetupRaisesErrState : Prop :=
  ∀ (s : State) (rt acc : Nat), s.phase = .idle → s.configured = false → rt < 2 ^ s.cfg.wRt → acc < 2 ^ s.cfg.wAcc →
    ∃ t, exec (.send rt acc) s = .next t ∧ t = { s with errState := true, line := t.line }

/-- R173: an accepted reserved command sets `ERR_CMD` and nothing else of the block changes, whatever `CONFIGURED` is. -/
def Obligations.ReservedCommandsRaiseErrCmd : Prop :=
  ∀ (s : State) (i : Instr), i = .rsvd0 ∨ i = .rsvd3 → s.phase = .idle →
    ∃ t, exec i s = .next t ∧ t = { s with errCmd := true, line := t.line }

/-- R175: while a frame is being sent a presented command has none of its effect, the sequencer steps instead, and a line that
presents a command stays on the port. -/
def Obligations.CommandsWaitWhileSending : Prop :=
  ∀ s : State, s.phase = .tx →
    (∀ i, commandOf i ≠ none → WellFormed s.cfg i → exec i s = exec .sequencerStep s) ∧
    (∀ l r, pendingLines s.host = l :: r → l.command ≠ none → ∃ t, step s = .next t ∧ pendingLines t.host = l :: r)

/-- I4, R75 (log 12): a reading wider than its port is refused by name, by every instruction that takes it. -/
def Obligations.TooWideReadingsAreRefused : Prop :=
  ∀ (s : State) (rt acc : Nat),
    (2 ^ s.cfg.wRt ≤ rt ∨ 2 ^ s.cfg.wAcc ≤ acc →
      exec (.send rt acc) s = .refused .operandTooWide ∧ exec (.setConsumption rt acc) s = .refused .operandTooWide) ∧
    (2 ^ s.cfg.wRt ≤ rt → exec (.scaledRealtime rt) s = .refused .operandTooWide) ∧
    (2 ^ s.cfg.wAcc ≤ acc → exec (.scaledAccumulated acc) s = .refused .operandTooWide)

/-! ### The line encoder -/

/-- R100, R101, R103: a 0 is low then high, a 1 is high then low, each half one half-bit long; `TX` is all of the block they write.
The two segments are read off the model's record (log 6, log 8). -/
def Obligations.BitPrimitivesDriveTwoHalfBits : Prop :=
  ∀ s : State,
    exec .sendZero s = .next { s with tx := true, line := ⟨true, s.cfg.tHalf⟩ :: ⟨false, s.cfg.tHalf⟩ :: s.line } ∧
    exec .sendOne s = .next { s with tx := false, line := ⟨false, s.cfg.tHalf⟩ :: ⟨true, s.cfg.tHalf⟩ :: s.line } ∧
    ∀ v, exec (.sendBit v) s = .next { s with tx := !v, line := ⟨!v, s.cfg.tHalf⟩ :: ⟨v, s.cfg.tHalf⟩ :: s.line }

/-- R104, R106: the preamble is high, low, ten times over and the postamble low, high, four times over (log 6, log 8). -/
def Obligations.PreambleAndPostambleAlternate : Prop :=
  ∀ s : State,
    exec .sendPreamble s = .next { s with
      tx := false, line := ((List.range 20).map fun k => ⟨decide (k % 2 = 0), s.cfg.tHalf⟩).reverse ++ s.line } ∧
    exec .sendPostamble s = .next { s with
      tx := true, line := ((List.range 8).map fun k => ⟨decide (k % 2 = 1), s.cfg.tHalf⟩).reverse ++ s.line }

/-- R105, R53, R54: the payload is sent in address order, bit 0 of each byte first, two half-bits a bit (log 6, log 8). The spec's
size is 13; that sizes 0 to 12 run by the same loop is the model's choice (log 13). -/
def Obligations.SendDataSendsBytesLowestBitFirst : Prop :=
  ∀ (s : State) (size : Nat), size ≤ 13 →
    ∃ (t : State) (w : List Segment), exec (.sendData size) s = .next t ∧
      t = { s with tx := t.tx, line := w.reverse ++ s.line } ∧ w.length = 16 * size ∧
      ∀ i j, i < size → j < 8 →
        w[16 * i + 2 * j]? = some ⟨(s.buf.read i).getLsbD j, s.cfg.tHalf⟩ ∧
        w[16 * i + 2 * j + 1]? = some ⟨!(s.buf.read i).getLsbD j, s.cfg.tHalf⟩

/-- R107: sendOregon is preamble, then data, then postamble, in that order. R107 gives it at size 13 only; that sizes 0 to 12 run
in the same way is the model's choice (log 13). -/
def Obligations.SendOregonIsPreambleDataPostamble : Prop :=
  ∀ (s : State) (size : Nat), size ≤ 13 →
    ∃ t u v, exec .sendPreamble s = .next t ∧ exec (.sendData size) t = .next u ∧ exec .sendPostamble u = .next v ∧
      exec (.sendOregon size) s = .next v

/-- R107, R108, R112: the operations of a frame, one after the other, put exactly the waveform `W(BUF)` of the segment levels on
the line, and change nothing of the block but `TX` (log 6, log 8). -/
def Obligations.SendOregonSendsTheWaveform : Prop :=
  ∀ s : State, exec (.sendOregon 13) s = .next { s with tx := true, line := (waveform s.cfg.tHalf s.buf).reverse ++ s.line }

/-- R50, R51 (log 13): an operation run alone on more bytes than the buffer has stops with a fault. -/
def Obligations.BytesBeyondTheBufferFault : Prop :=
  ∀ (s : State) (n : Nat), 13 < n →
    exec (.sendData n) s = .fault (.outsideBuffer n) ∧ exec (.sendOregon n) s = .fault (.outsideBuffer n) ∧
    exec (.sum n) s = .fault (.outsideBuffer n)

/-- R109: the three branches of the sequencer step, while `PHASE` = `TX`. -/
def Obligations.SequencerStepBranches : Prop :=
  ∀ s : State, s.phase = .tx →
    ∃ t, exec .sequencerStep s = .next t ∧
      (s.cnt < s.cfg.tHalf - 1 → t = { s with cnt := s.cnt + 1, line := t.line }) ∧
      (¬s.cnt < s.cfg.tHalf - 1 → s.seg.toNat < 235 →
        t = { s with seg := t.seg, cnt := 0, tx := level s.buf (s.seg.toNat + 1), line := t.line } ∧
        t.seg.toNat = s.seg.toNat + 1) ∧
      (¬s.cnt < s.cfg.tHalf - 1 → ¬s.seg.toNat < 235 →
        t = { s with phase := .idle, seg := 0#8, cnt := 0, tx := false, line := t.line })

/-- R180 ("idle, nothing changes"), R208 (log 10): with no reset, no frame and no command nothing of the block changes at an edge,
nor by a sequencer step run alone in `IDLE`. -/
def Obligations.IdleEdgeChangesNothing : Prop :=
  ∀ s : State, s.phase = .idle →
    (∃ t, exec .sequencerStep s = .next t ∧ t = { s with line := t.line }) ∧
    (s.ports.rst = false → s.ports.cmdValid = false → ∃ t, step s = .next t ∧ t = { s with host := t.host, line := t.line })

/-- R108, R79: the level of segment `k` of a frame, from the bits of the buffer, for all three parts of the frame. -/
def Obligations.SegmentLevelsOfAFrame : Prop :=
  ∀ m : Memory,
    (∀ n, n < 10 → level m (2 * n) = true ∧ level m (2 * n + 1) = false) ∧
    (∀ i j, i < 13 → j < 8 →
      level m (20 + 16 * i + 2 * j) = (m.read i).getLsbD j ∧ level m (20 + 16 * i + 2 * j + 1) = !(m.read i).getLsbD j) ∧
    (∀ n, 114 ≤ n → n < 118 → level m (2 * n) = false ∧ level m (2 * n + 1) = true)

/-- R56, R81: where the fields of a message stand in its frame, the readings as contiguous bit strings lowest bit first, the
checksum nibbles in the order 2, 0, 1. -/
def Obligations.FieldsInFrameOrder : Prop :=
  ∀ (rt acc : Nat) (m : Memory),
    let b := frameBit (messageOf rt acc m)
    let v := BitVec.ofInt 12 (nibbleSum 11 (messageOf rt acc m))
    (∀ j, j < 4 → b (34 + j) = false) ∧
    (∀ j, j < 16 → b (38 + j) = (rt * 497 / 500 / 16).testBit j) ∧
    (∀ j, j < 44 → b (54 + j) = (acc * 223666 / 1000).testBit j) ∧
    (∀ j, j < 4 → b (98 + j) = v.getLsbD (8 + j) ∧ b (102 + j) = v.getLsbD j ∧ b (106 + j) = v.getLsbD (4 + j)) ∧
    (∀ j, j < 4 → b (110 + j) = false)

/-- R113: the level changes on `TX` in one frame, the rise into it and the final fall included. -/
def Obligations.LevelChangesInAFrame : Prop :=
  ∀ m : Memory, frameEdges m = 118 + 2 + ((List.range 117).filter fun n => frameBit m n == frameBit m (n + 1)).length

/-- V-F4 (from R108): every frame is high for exactly 118 of its 236 segments, whatever the data. -/
def Obligations.EveryFrameIsHighHalfTheTime : Prop :=
  ∀ m : Memory, ((List.range 236).filter (level m)).length = 118

/-! ### The message packer -/

/-- R130: setType writes bytes 0 and 1, and nothing else of the block changes. -/
def Obligations.SetTypeWritesTheTypeBytes : Prop :=
  ∀ s : State, ∃ t, exec .setType s = .next t ∧ t = { s with buf := t.buf } ∧
    t.buf.read 0 = 0x62#8 ∧ t.buf.read 1 = 0x80#8 ∧ ∀ a, a ≠ 0 → a ≠ 1 → t.buf.read a = s.buf.read a

/-- R131: setId stores every identifier unchanged in byte 2, and nothing else of the block changes. -/
def Obligations.SetIdWritesByteTwo : Prop :=
  ∀ (s : State) (id : Byte), ∃ t, exec (.setId id) s = .next t ∧ t = { s with buf := t.buf } ∧
    t.buf.read 2 = id ∧ ∀ a, a ≠ 2 → t.buf.read a = s.buf.read a

/-- R171: SETUP is setType, then setId, then `CONFIGURED` <- 1, at one edge. -/
def Obligations.SetupIsSetTypeThenSetId : Prop :=
  ∀ (s : State) (id : Byte), s.phase = .idle →
    ∃ t u v, exec .setType s = .next t ∧ exec (.setId id) t = .next u ∧ exec (.setup id) s = .next v ∧
      v = { u with configured := true, line := v.line }

/-- R22, R130, R131: no instruction but SETUP, setType and setId changes bytes 0 to 2. -/
def Obligations.OnlySetupWritesTheIdentityBytes : Prop :=
  ∀ (i : Instr) (s t : State), exec i s = .next t → i ≠ .setType → (∀ id, i ≠ .setId id) → (∀ id, i ≠ .setup id) →
    ∀ a, a < 3 → t.buf.read a = s.buf.read a

/-- R132: setConsumption writes bytes 3 to 10 by the document's formulas, and nothing else of the block changes. -/
def Obligations.SetConsumptionPacksBothReadings : Prop :=
  ∀ (s : State) (rt acc : Nat), rt < 2 ^ s.cfg.wRt → acc < 2 ^ s.cfg.wAcc →
    ∃ t, exec (.setConsumption rt acc) s = .next t ∧ t = { s with buf := t.buf } ∧
      (∀ a, a < 3 ∨ 10 < a → t.buf.read a = s.buf.read a) ∧
      (let r := rt * 497 / 500 / 16
       let a := acc * 223666 / 1000
       (t.buf.read 3).toNat = (r &&& 0xF) <<< 4 ∧
       (t.buf.read 4).toNat = (r >>> 4) &&& 0xFF ∧
       (t.buf.read 5).toNat = ((r >>> 12) &&& 0xF) ||| ((a &&& 0xF) <<< 4) ∧
       (t.buf.read 6).toNat = (a >>> 4) &&& 0xFF ∧
       (t.buf.read 7).toNat = (a >>> 12) &&& 0xFF ∧
       (t.buf.read 8).toNat = (a >>> 20) &&& 0xFF ∧
       (t.buf.read 9).toNat = (a >>> 28) &&& 0xFF ∧
       (t.buf.read 10).toNat = (a >>> 36) &&& 0xFF)

/-- R133, R134: the two scalings, each one floor of an exact product; the value is handed back in the model's `returned` (log 7)
and nothing else changes. At this spec's width the accumulated value stays below 2^40. -/
def Obligations.ScalingsAreExactFloors : Prop :=
  ∀ (s : State) (rt acc : Nat),
    (rt < 2 ^ s.cfg.wRt →
      exec (.scaledRealtime rt) s = .next { s with returned := some ((rt * 497 / 8000 : Nat) : Int) }) ∧
    (acc < 2 ^ s.cfg.wAcc →
      exec (.scaledAccumulated acc) s = .next { s with returned := some ((acc * 223666 / 1000 : Nat) : Int) }) ∧
    (acc < 2 ^ 32 → scaleAccumulated acc ≤ 0xDFAA7EF8FB)

/-- R136: the fields read back from a packed buffer are the scaled values modulo 2^16 and modulo 2^44, for readings of any size. -/
def Obligations.PackedReadingsRoundTrip : Prop :=
  ∀ (rt acc : Nat) (m : Memory),
    extractRealtime (packConsumption rt acc m) = (rt * 497 / 500 / 16) % 2 ^ 16 ∧
    extractAccumulated (packConsumption rt acc m) = (acc * 223666 / 1000) % 2 ^ 44

/-! ### The checksum generator -/

/-- R151: the nibble sum of the first bytes less 2, handed back in the model's `returned` (log 7); nothing else changes. -/
def Obligations.SumAddsNibblesLessTwo : Prop :=
  ∀ (s : State) (count : Nat), count ≤ 13 →
    exec (.sum count) s = .next { s with
      returned := some (((List.range count).map fun i => (s.buf.read i).toNat % 16 + (s.buf.read i).toNat / 16).sum - 2) }

/-- R152: the checksum bytes, from the twelve bits of the sum of bytes 0 to 10, and nothing else of the block changes. -/
def Obligations.ChecksumIsPlacedNibbleSwapped : Prop :=
  ∀ s : State, ∃ t, exec .calculateAndSetChecksum s = .next t ∧ t = { s with buf := t.buf } ∧
    (∀ a, a ≠ 11 → a ≠ 12 → t.buf.read a = s.buf.read a) ∧
    (let v := BitVec.ofInt 12 (((List.range 11).map fun i => (s.buf.read i).toNat % 16 + (s.buf.read i).toNat / 16).sum - 2)
     t.buf.read 11 = v.extractLsb' 0 4 ++ v.extractLsb' 8 4 ∧ t.buf.read 12 = 0#4 ++ v.extractLsb' 4 4)

/-- R172, R150: a performed SEND is setConsumption, then calculateAndSetChecksum, then the frame's start, at one edge. -/
def Obligations.SendIsPackThenChecksum : Prop :=
  ∀ (s : State) (rt acc : Nat), s.phase = .idle → s.configured = true → rt < 2 ^ s.cfg.wRt → acc < 2 ^ s.cfg.wAcc →
    ∃ t u v, exec (.setConsumption rt acc) s = .next t ∧ exec .calculateAndSetChecksum t = .next u ∧
      exec (.send rt acc) s = .next v ∧
      v = { u with phase := .tx, seg := 0#8, cnt := 0, tx := true, line := v.line }

/-- R153: the sum a SEND computes in the Configured state is between 14 and 269. -/
def Obligations.SumRangeInsideTheBlock : Prop :=
  ∀ (m : Memory) (rt acc : Nat), m.read 0 = 0x62#8 → m.read 1 = 0x80#8 →
    14 ≤ nibbleSum 11 (packConsumption rt acc m) ∧ nibbleSum 11 (packConsumption rt acc m) ≤ 269

/-- R153: with the default `W_ACC` = 32 the sum stays below 256, so the low nibble of byte 11 is 0 in every message. -/
def Obligations.SumBelow256AtDefaultWidths : Prop :=
  ∀ (m : Memory) (rt acc : Nat), m.read 0 = 0x62#8 → m.read 1 = 0x80#8 → acc < 2 ^ 32 →
    nibbleSum 11 (packConsumption rt acc m) ≤ 251 ∧ ((messageOf rt acc m).read 11).toNat % 16 = 0

/-! ### Outputs and flags -/

/-- R181, R31, R52: the outputs in every cycle, `STATUS` bit by bit; `CMD_READY` is `NOT BUSY`. -/
def Obligations.OutputsInEveryCycle : Prop :=
  ∀ (s : State) (p : Ports),
    (s.outputs p).tx = s.tx ∧ (s.outputs p).cmdReady = decide (s.phase = .idle) ∧
    (s.outputs p).status.getLsbD 0 = decide (s.phase = .tx) ∧ (s.outputs p).status.getLsbD 1 = s.configured ∧
    (s.outputs p).status.getLsbD 2 = s.errState ∧ (s.outputs p).status.getLsbD 3 = s.errCmd ∧
    (s.outputs p).cmdReady = !(s.outputs p).status.getLsbD 0 ∧
    (p.dbgAddr.toNat ≤ 12 → (s.outputs p).dbgData = s.buf.read p.dbgAddr.toNat) ∧
    (12 < p.dbgAddr.toNat → (s.outputs p).dbgData = 0x00#8)

/-- R23: `CONFIGURED` after an edge: set by an accepted SETUP alone, cleared by reset alone. -/
def Obligations.ConfiguredAfterAnEdge : Prop :=
  ∀ s t : State, step s = .next t →
    t.configured = (!s.ports.rst && (s.configured || (s.accepts && s.ports.cmdOp == 0b01#2)))

/-- R200: `ERR_STATE` after an edge: set by a SEND accepted while `CONFIGURED` = 0 alone, cleared by reset alone. -/
def Obligations.ErrStateAfterAnEdge : Prop :=
  ∀ s t : State, step s = .next t →
    t.errState = (!s.ports.rst && (s.errState || (s.accepts && s.ports.cmdOp == 0b10#2 && !s.configured)))

/-- R201: `ERR_CMD` after an edge: set by an accepted reserved code alone, cleared by reset alone. -/
def Obligations.ErrCmdAfterAnEdge : Prop :=
  ∀ s t : State, step s = .next t →
    t.errCmd = (!s.ports.rst && (s.errCmd || (s.accepts && (s.ports.cmdOp == 0b00#2 || s.ports.cmdOp == 0b11#2))))

/-- R205, I1, I5 (log 16): a state is faulted from the edge that accepts a reserved code, or a SEND before configuration, until the
next reset, and by no other edge; and a run is a faulted run exactly when either flag rises at one of its edges, whatever resets
follow. -/
def Obligations.FaultedAfterAnEdge : Prop :=
  (∀ s t : State, step s = .next t →
    (t.faulted = true ↔ s.ports.rst = false ∧
      (s.faulted = true ∨
       (s.accepts = true ∧ s.ports.cmdOp ≠ 0b01#2 ∧ ¬(s.ports.cmdOp = 0b10#2 ∧ s.configured = true))))) ∧
  ∀ (fuel : Nat) (p : List HostLine) (s : State) (o : Observation), observeRun fuel p s = some o →
    (o.faulted = true ↔ ∃ i u v, i < o.txs.length ∧ runFor i (s.startRun p) = .next u ∧ step u = .next v ∧
      ((u.errState = false ∧ v.errState = true) ∨ (u.errCmd = false ∧ v.errCmd = true)))

/-- R24: `PHASE` after an edge: set to `TX` by an accepted SEND in the Configured state alone, back to `IDLE` at the end of the last
segment or by reset alone. -/
def Obligations.PhaseAfterAnEdge : Prop :=
  ∀ s t : State, step s = .next t →
    (t.phase = .tx ↔ s.ports.rst = false ∧
      ((s.phase = .tx ∧ (s.cnt < s.cfg.tHalf - 1 ∨ s.seg.toNat < 235)) ∨
       (s.accepts = true ∧ s.ports.cmdOp = 0b10#2 ∧ s.configured = true)))

/-! ### Reset -/

/-- R220, R222, R234: at an edge with `RST` = 1 every element of the block takes its reset value, in every state and whatever is
on the command port; the parameters and the handed-back value are no elements of it. -/
def Obligations.ResetEdgeClearsEverything : Prop :=
  ∀ s : State, s.ports.rst = true →
    ∃ t, step s = .next t ∧
      t = { State.reset with cfg := s.cfg, host := t.host, line := t.line, returned := s.returned }

/-- R35, R221: the block's elements and outputs after reset. -/
def Obligations.ResetValues : Prop :=
  (∀ a, State.reset.buf.read a = 0x00#8) ∧ State.reset.configured = false ∧ State.reset.phase = .idle ∧
  State.reset.seg = 0#8 ∧ State.reset.cnt = 0 ∧ State.reset.tx = false ∧ State.reset.errState = false ∧
  State.reset.errCmd = false ∧ State.reset.status = 0b0000#4 ∧ State.reset.cmdReady = true

/-! ### One edge -/

/-- R180: what an edge runs: with `RST` = 0, the sequencer while a frame is being sent; the decoded command, read from ports cut to
their widths, when the block is ready and `CMD_VALID` = 1. Around `exec` the edge only moves the host's list on (log 1). -/
def Obligations.StepRunsTheDecodedInstruction : Prop :=
  ∀ s : State, s.ports.rst = false →
    (s.phase = .tx → ∃ t, exec .sequencerStep s = .next t ∧ step s = .next { t with host := hostAfter s t.phase }) ∧
    (∀ i, s.phase = .idle → s.ports.cmdValid = true → decodeCommand (s.ports.command s.cfg) = i →
      WellFormed s.cfg i ∧ ∃ t, exec i s = .next t ∧ step s = .next { t with host := hostAfter s t.phase })

/-- R71, R76 (log 15): a command word put on the port of a block that is ready is accepted and run at the very next edge, and the
host then goes on with what it had to do. -/
def Obligations.PresentedWordRunsAtTheNextEdge : Prop :=
  ∀ (s : State) (nbits w : Nat) (i : Instr), w < 2 ^ nbits → decodeWord s.cfg w = .ok i →
    ∃ t, exec i (s.withFetchWord nbits w) = .next t ∧ step (s.withFetchWord nbits w) = .next { t with host := s.host }

/-- R180, R33: every state has exactly one next state; a step neither faults nor refuses, what it does to the block is the block's
own step, which takes the parameters and the port values as arguments, and it leaves the parameters as they are; and every sequence
of port values is one that some host drives, edge by edge (log 1, log 4, log 7). -/
def Obligations.EveryStateHasANextState : Prop :=
  (∀ s : State, ∃ t, step s = .next t ∧ t.toBlock = blockStep s.cfg s.ports s.toBlock ∧ t.cfg = s.cfg ∧
    t.returned = s.returned) ∧
  ∀ (s : State) (ins : List Ports), ∃ t, runFor ins.length { s with host := ins.map .ports } = .next t ∧
    t.toBlock = blockRun s.cfg ins s.toBlock

/-- R63, R109: during a frame an edge without reset changes no byte of `BUF`, nor `CONFIGURED`, `ERR_STATE` or `ERR_CMD`. -/
def Obligations.BufferHoldsDuringAFrame : Prop :=
  ∀ s t : State, s.phase = .tx → s.ports.rst = false → step s = .next t →
    t = { s with phase := t.phase, seg := t.seg, cnt := t.cnt, tx := t.tx, host := t.host, line := t.line }

/-- R71, R78: an edge takes a presented command off the host's list exactly when it accepts it. -/
def Obligations.AcceptedLineLeavesThePort : Prop :=
  ∀ (s t : State) (l : HostLine) (r : List HostLine), pendingLines s.host = l :: r → l.command ≠ none → step s = .next t →
    (s.phase = .idle → t.host = r) ∧ (s.phase = .tx → t.host = l :: r)

/-- R183 (log 6): every edge adds exactly one value to the record of the line, the value `TX` has after it; a run ends at the first
edge after which its program is done, and at no other; and what is observed of it is `TX` after each of its edges and the state,
`STATUS` and `DBG_DATA` at its end. -/
def Obligations.ObservationOfARun : Prop :=
  (∀ s t : State, step s = .next t → txHistory t.line = txHistory s.line ++ [t.tx]) ∧
  (∀ (fuel : Nat) (s t : State), runToEnd fuel s = some t ↔
    ∃ k, 1 ≤ k ∧ k ≤ fuel ∧ runFor k s = .next t ∧ t.programDone = true ∧
      ∀ m u, 1 ≤ m → m < k → runFor m s = .next u → u.programDone = false) ∧
  (∀ (fuel : Nat) (p : List HostLine) (s : State) (o : Observation), observeRun fuel p s = some o →
    runToEnd fuel (s.startRun p) = some o.final ∧ runFor o.txs.length (s.startRun p) = .next o.final ∧
    (∀ i, i < o.txs.length → ∃ u, runFor (i + 1) (s.startRun p) = .next u ∧ o.txs[i]? = some u.tx) ∧
    o.status = o.final.status ∧ ∀ a : BitVec 4, o.dbg[a.toNat]? = some (o.final.dbgData a))

/-! ### Invariants -/

/-- R37: the invariants hold at reset. -/
def Obligations.InvariantsHoldAtReset : Prop := State.reset.Inv

/-- R37: every edge keeps the invariants, whatever the host does. -/
def Obligations.EveryEdgeKeepsTheInvariants : Prop :=
  ∀ s t : State, s.Inv → step s = .next t → t.Inv

/-- R26, from R37 (2): under the invariants the timer's value fits the width R26 gives it. -/
def Obligations.TimerFitsItsWidth : Prop :=
  ∀ s : State, s.Inv → s.cnt < 2 ^ s.cfg.cntWidth

/-- R20, R50: every instruction that completes, the internal operations run alone too, keeps the buffer canonical. -/
def Obligations.EveryInstructionKeepsTheBufferCanonical : Prop :=
  ∀ (i : Instr) (s t : State), s.buf.wf = true → exec i s = .next t → t.buf.wf = true

/-! ### Whole frames -/

/-- R111: the cycle-level waveform of a frame. From the state after the accepting edge of a SEND, and with no reset before the edge
`236 * T_HALF_CYCLES` edges on, `TX` is the level of segment `k` and `BUSY` = 1 for exactly `T_HALF_CYCLES` edges each, in order;
after that edge `TX` = 0, `BUSY` = 0 and `CMD_READY` = 1, and the buffer is unchanged unless that edge itself is a reset. -/
def Obligations.FrameIsCycleExact : Prop :=
  ∀ s : State, s.cfg.Legal → s.FrameStart → s.NoResetFor (236 * s.cfg.tHalf - 1) →
    (∀ k j, k < 236 → j < s.cfg.tHalf →
      ∃ t, runFor (k * s.cfg.tHalf + j) s = .next t ∧ t.tx = level s.buf k ∧ t.busy = true ∧ t.cmdReady = false) ∧
    ∃ t u, runFor (236 * s.cfg.tHalf - 1) s = .next t ∧ step t = .next u ∧ runFor (236 * s.cfg.tHalf) s = .next u ∧
      u.Quiet ∧ u.busy = false ∧ u.cmdReady = true ∧
      (t.ports.rst = false → u.buf = s.buf ∧ u.configured = s.configured)

/-- R6, R112 (log 6, log 8): the cycle level shows the frame level. A frame run edge by edge, with no reset before its last edge,
leaves in the record what sendOregon, run as one operation on the same buffer, puts there, followed by the first cycle of the
final low. -/
def Obligations.CyclesRefineSendOregon : Prop :=
  ∀ (s : State) (r : List Segment), s.cfg.Legal → s.FrameStart → s.NoResetFor (236 * s.cfg.tHalf - 1) →
    s.line = ⟨true, 1⟩ :: r →
    ∃ t u, runFor (236 * s.cfg.tHalf) s = .next t ∧ exec (.sendOregon 13) { s with line := r } = .next u ∧
      t.line = ⟨false, 1⟩ :: u.line

/-- R182 (log 1, log 6): the command level is exact. From an idle state with the host's list cut off after the command, `d - 1` more
edges bring the block to an idle state whose abstract state is `σ'`, and over the `d` edges `TX` shows `W` and then one low cycle. -/
def Obligations.CommandLevelIsExact : Prop :=
  ∀ (s : State) (k : Command), s.cfg.Legal → s.Quiet → k.rt < 2 ^ s.cfg.wRt → k.acc < 2 ^ s.cfg.wAcc →
    ∃ t u, exec (decodeCommand k) s = .next t ∧
      runFor ((commandLevel s.cfg s.abs k).distance - 1) { t with host := [] } = .next u ∧ u.Quiet ∧
      u.abs = (commandLevel s.cfg s.abs k).after ∧
      txHistory u.line =
        txHistory s.line ++ (commandLevel s.cfg s.abs k).wave.flatMap Segment.cycleLevels ++ [false]

/-- R102, R240, R7: cycles as wall-clock time: where 488 µs is `T_HALF_CYCLES` cycles, a half-bit is exactly 488 µs, a bit 976 µs
and a frame 115 168 µs; and every `T_HALF_CYCLES` from 1 on has a frequency at which that is so. -/
def Obligations.WallClockOfAFrame : Prop :=
  (∀ c : Config, c.RealTime →
    microsOf c c.tHalf = 488 ∧ microsOf c (2 * c.tHalf) = 976 ∧ microsOf c (236 * c.tHalf) = 115168) ∧
  ∀ c : Config, 1 ≤ c.tHalf → ∃ f : ℚ, Config.RealTime { c with fClkHz := f }

/-- R235: a SEND waiting at the end of a frame is accepted one edge after the edge that ends it, so the line is low for one cycle
between the two frames. -/
def Obligations.ShortestGapIsOneCycle : Prop :=
  ∀ (s : State) (rt acc : Nat) (r : List HostLine),
    s.phase = .tx → s.configured = true → ¬s.cnt < s.cfg.tHalf - 1 → ¬s.seg.toNat < 235 → s.host = .send rt acc :: r →
    ∃ t u, step s = .next t ∧ t.tx = false ∧ t.phase = .idle ∧ t.host = s.host ∧
      step t = .next u ∧ u.tx = true ∧ u.phase = .tx ∧ u.host = r

/-- R79, R81: the operations in progress during a frame: the part of the frame and the bit primitive that segment `SEG` belongs to. -/
def Obligations.OperationsInProgress : Prop :=
  ∀ s : State, s.phase = .tx →
    .sequencerStep ∈ s.activeOps ∧
    (.sendPreamble ∈ s.activeOps ↔ s.seg.toNat ≤ 19) ∧
    (.sendData 13 ∈ s.activeOps ↔ 20 ≤ s.seg.toNat ∧ s.seg.toNat ≤ 227) ∧
    (.sendPostamble ∈ s.activeOps ↔ 228 ≤ s.seg.toNat ∧ s.seg.toNat ≤ 235) ∧
    (.sendOne ∈ s.activeOps ↔ frameBit s.buf (s.seg.toNat / 2) = true) ∧
    (.sendZero ∈ s.activeOps ↔ frameBit s.buf (s.seg.toNat / 2) = false)
end

