-- ==== Sys2Proof/Laws/State.lean ====
section
/-! SUPPORT. One lemma per field per update of the state, each true by unfolding the update. -/

namespace Sys2Proof.Machine

/-! ### The block inside the state -/

@[simp] theorem State.opened_toBlock (s : State) : s.opened.toBlock = s.toBlock := rfl

@[simp] theorem State.hold_toBlock (s : State) (n : Nat) : (s.hold n).toBlock = s.toBlock := rfl

@[simp] theorem State.idleEdge_toBlock (s : State) : s.idleEdge.toBlock = s.toBlock := rfl

@[simp] theorem State.hostFrom_toBlock (s r : State) : (s.hostFrom r).toBlock = s.toBlock := rfl

@[simp] theorem State.startRun_toBlock (s : State) (p : List HostLine) : (s.startRun p).toBlock = s.toBlock := rfl

@[simp] theorem State.raiseErrState_toBlock (s : State) : s.raiseErrState.toBlock = s.toBlock.raiseErrState := rfl

@[simp] theorem State.raiseErrCmd_toBlock (s : State) : s.raiseErrCmd.toBlock = s.toBlock.raiseErrCmd := rfl

@[simp] theorem State.resetEdge_toBlock (s : State) : s.resetEdge.toBlock = Block.reset := rfl

@[simp] theorem State.setupEffect_toBlock (s : State) (id : Byte) : (s.setupEffect id).toBlock = s.toBlock.setup id := rfl

@[simp] theorem State.startFrame_toBlock (s : State) (m : Memory) : (s.startFrame m).toBlock = s.toBlock.startFrame m := rfl

@[simp] theorem State.reset_toBlock : State.reset.toBlock = Block.reset := rfl

@[simp] theorem State.sequence_toBlock (s : State) : s.sequence.toBlock = s.toBlock.sequence s.cfg.tHalf := by
  unfold State.sequence; split <;> rfl

@[simp] theorem State.sequencerEdge_toBlock (s : State) : s.sequencerEdge.toBlock = s.toBlock.sequence s.cfg.tHalf :=
  s.sequence_toBlock

@[simp] theorem State.sendEffect_toBlock (s : State) (rt acc : Nat) :
    (s.sendEffect rt acc).toBlock = s.toBlock.send rt acc := by
  unfold State.sendEffect; split <;> rfl

/-! ### Opening a segment of the record -/

@[simp] theorem State.opened_buf (s : State) : s.opened.buf = s.buf := rfl

@[simp] theorem State.opened_configured (s : State) : s.opened.configured = s.configured := rfl

@[simp] theorem State.opened_phase (s : State) : s.opened.phase = s.phase := rfl

@[simp] theorem State.opened_seg (s : State) : s.opened.seg = s.seg := rfl

@[simp] theorem State.opened_cnt (s : State) : s.opened.cnt = s.cnt := rfl

@[simp] theorem State.opened_tx (s : State) : s.opened.tx = s.tx := rfl

@[simp] theorem State.opened_errState (s : State) : s.opened.errState = s.errState := rfl

@[simp] theorem State.opened_errCmd (s : State) : s.opened.errCmd = s.errCmd := rfl

@[simp] theorem State.opened_cfg (s : State) : s.opened.cfg = s.cfg := rfl

@[simp] theorem State.opened_host (s : State) : s.opened.host = s.host := rfl

@[simp] theorem State.opened_line (s : State) : s.opened.line = ⟨s.tx, 0⟩ :: s.line := rfl

@[simp] theorem State.opened_returned (s : State) : s.opened.returned = s.returned := rfl

/-! ### Driving the line -/

@[simp] theorem State.drive_buf (s : State) (l : Bit) : (s.drive l).buf = s.buf := rfl

@[simp] theorem State.drive_configured (s : State) (l : Bit) : (s.drive l).configured = s.configured := rfl

@[simp] theorem State.drive_phase (s : State) (l : Bit) : (s.drive l).phase = s.phase := rfl

@[simp] theorem State.drive_seg (s : State) (l : Bit) : (s.drive l).seg = s.seg := rfl

@[simp] theorem State.drive_cnt (s : State) (l : Bit) : (s.drive l).cnt = s.cnt := rfl

@[simp] theorem State.drive_tx (s : State) (l : Bit) : (s.drive l).tx = l := rfl

@[simp] theorem State.drive_errState (s : State) (l : Bit) : (s.drive l).errState = s.errState := rfl

@[simp] theorem State.drive_errCmd (s : State) (l : Bit) : (s.drive l).errCmd = s.errCmd := rfl

@[simp] theorem State.drive_cfg (s : State) (l : Bit) : (s.drive l).cfg = s.cfg := rfl

@[simp] theorem State.drive_host (s : State) (l : Bit) : (s.drive l).host = s.host := rfl

@[simp] theorem State.drive_line (s : State) (l : Bit) : (s.drive l).line = ⟨l, 0⟩ :: s.line := rfl

@[simp] theorem State.drive_returned (s : State) (l : Bit) : (s.drive l).returned = s.returned := rfl

/-! ### Holding the line -/

@[simp] theorem State.hold_buf (s : State) (n : Nat) : (s.hold n).buf = s.buf := rfl

@[simp] theorem State.hold_configured (s : State) (n : Nat) : (s.hold n).configured = s.configured := rfl

@[simp] theorem State.hold_phase (s : State) (n : Nat) : (s.hold n).phase = s.phase := rfl

@[simp] theorem State.hold_seg (s : State) (n : Nat) : (s.hold n).seg = s.seg := rfl

@[simp] theorem State.hold_cnt (s : State) (n : Nat) : (s.hold n).cnt = s.cnt := rfl

@[simp] theorem State.hold_tx (s : State) (n : Nat) : (s.hold n).tx = s.tx := rfl

@[simp] theorem State.hold_errState (s : State) (n : Nat) : (s.hold n).errState = s.errState := rfl

@[simp] theorem State.hold_errCmd (s : State) (n : Nat) : (s.hold n).errCmd = s.errCmd := rfl

@[simp] theorem State.hold_cfg (s : State) (n : Nat) : (s.hold n).cfg = s.cfg := rfl

@[simp] theorem State.hold_host (s : State) (n : Nat) : (s.hold n).host = s.host := rfl

@[simp] theorem State.hold_line (s : State) (n : Nat) : (s.hold n).line = holdLine s.tx n s.line := rfl

@[simp] theorem State.hold_returned (s : State) (n : Nat) : (s.hold n).returned = s.returned := rfl

/-! ### A segment -/

@[simp] theorem State.segment_buf (s : State) (l : Bit) : (s.segment l).buf = s.buf := rfl

@[simp] theorem State.segment_configured (s : State) (l : Bit) : (s.segment l).configured = s.configured := rfl

@[simp] theorem State.segment_phase (s : State) (l : Bit) : (s.segment l).phase = s.phase := rfl

@[simp] theorem State.segment_seg (s : State) (l : Bit) : (s.segment l).seg = s.seg := rfl

@[simp] theorem State.segment_cnt (s : State) (l : Bit) : (s.segment l).cnt = s.cnt := rfl

@[simp] theorem State.segment_tx (s : State) (l : Bit) : (s.segment l).tx = l := rfl

@[simp] theorem State.segment_errState (s : State) (l : Bit) : (s.segment l).errState = s.errState := rfl

@[simp] theorem State.segment_errCmd (s : State) (l : Bit) : (s.segment l).errCmd = s.errCmd := rfl

@[simp] theorem State.segment_cfg (s : State) (l : Bit) : (s.segment l).cfg = s.cfg := rfl

@[simp] theorem State.segment_host (s : State) (l : Bit) : (s.segment l).host = s.host := rfl

@[simp] theorem State.segment_returned (s : State) (l : Bit) : (s.segment l).returned = s.returned := rfl

/-! ### ErrState -/

@[simp] theorem State.raiseErrState_buf (s : State) : (s.raiseErrState).buf = s.buf := rfl

@[simp] theorem State.raiseErrState_configured (s : State) : (s.raiseErrState).configured = s.configured := rfl

@[simp] theorem State.raiseErrState_phase (s : State) : (s.raiseErrState).phase = s.phase := rfl

@[simp] theorem State.raiseErrState_seg (s : State) : (s.raiseErrState).seg = s.seg := rfl

@[simp] theorem State.raiseErrState_cnt (s : State) : (s.raiseErrState).cnt = s.cnt := rfl

@[simp] theorem State.raiseErrState_tx (s : State) : (s.raiseErrState).tx = s.tx := rfl

@[simp] theorem State.raiseErrState_errState (s : State) : (s.raiseErrState).errState = true := rfl

@[simp] theorem State.raiseErrState_errCmd (s : State) : (s.raiseErrState).errCmd = s.errCmd := rfl

@[simp] theorem State.raiseErrState_cfg (s : State) : (s.raiseErrState).cfg = s.cfg := rfl

@[simp] theorem State.raiseErrState_host (s : State) : (s.raiseErrState).host = s.host := rfl

@[simp] theorem State.raiseErrState_line (s : State) : (s.raiseErrState).line = s.line := rfl

@[simp] theorem State.raiseErrState_returned (s : State) : (s.raiseErrState).returned = s.returned := rfl

/-! ### ErrCmd -/

@[simp] theorem State.raiseErrCmd_buf (s : State) : (s.raiseErrCmd).buf = s.buf := rfl

@[simp] theorem State.raiseErrCmd_configured (s : State) : (s.raiseErrCmd).configured = s.configured := rfl

@[simp] theorem State.raiseErrCmd_phase (s : State) : (s.raiseErrCmd).phase = s.phase := rfl

@[simp] theorem State.raiseErrCmd_seg (s : State) : (s.raiseErrCmd).seg = s.seg := rfl

@[simp] theorem State.raiseErrCmd_cnt (s : State) : (s.raiseErrCmd).cnt = s.cnt := rfl

@[simp] theorem State.raiseErrCmd_tx (s : State) : (s.raiseErrCmd).tx = s.tx := rfl

@[simp] theorem State.raiseErrCmd_errState (s : State) : (s.raiseErrCmd).errState = s.errState := rfl

@[simp] theorem State.raiseErrCmd_errCmd (s : State) : (s.raiseErrCmd).errCmd = true := rfl

@[simp] theorem State.raiseErrCmd_cfg (s : State) : (s.raiseErrCmd).cfg = s.cfg := rfl

@[simp] theorem State.raiseErrCmd_host (s : State) : (s.raiseErrCmd).host = s.host := rfl

@[simp] theorem State.raiseErrCmd_line (s : State) : (s.raiseErrCmd).line = s.line := rfl

@[simp] theorem State.raiseErrCmd_returned (s : State) : (s.raiseErrCmd).returned = s.returned := rfl

/-! ### A reset edge -/

@[simp] theorem State.resetEdge_buf (s : State) : (s.resetEdge).buf = [] := rfl

@[simp] theorem State.resetEdge_configured (s : State) : (s.resetEdge).configured = false := rfl

@[simp] theorem State.resetEdge_phase (s : State) : (s.resetEdge).phase = .idle := rfl

@[simp] theorem State.resetEdge_seg (s : State) : (s.resetEdge).seg = 0#8 := rfl

@[simp] theorem State.resetEdge_cnt (s : State) : (s.resetEdge).cnt = 0 := rfl

@[simp] theorem State.resetEdge_tx (s : State) : (s.resetEdge).tx = false := rfl

@[simp] theorem State.resetEdge_errState (s : State) : (s.resetEdge).errState = false := rfl

@[simp] theorem State.resetEdge_errCmd (s : State) : (s.resetEdge).errCmd = false := rfl

@[simp] theorem State.resetEdge_cfg (s : State) : (s.resetEdge).cfg = s.cfg := rfl

@[simp] theorem State.resetEdge_host (s : State) : (s.resetEdge).host = s.host := rfl

@[simp] theorem State.resetEdge_line (s : State) : (s.resetEdge).line = holdLine false 1 s.line := rfl

@[simp] theorem State.resetEdge_returned (s : State) : (s.resetEdge).returned = s.returned := rfl

/-! ### An idle edge -/

@[simp] theorem State.idleEdge_buf (s : State) : (s.idleEdge).buf = s.buf := rfl

@[simp] theorem State.idleEdge_configured (s : State) : (s.idleEdge).configured = s.configured := rfl

@[simp] theorem State.idleEdge_phase (s : State) : (s.idleEdge).phase = s.phase := rfl

@[simp] theorem State.idleEdge_seg (s : State) : (s.idleEdge).seg = s.seg := rfl

@[simp] theorem State.idleEdge_cnt (s : State) : (s.idleEdge).cnt = s.cnt := rfl

@[simp] theorem State.idleEdge_tx (s : State) : (s.idleEdge).tx = s.tx := rfl

@[simp] theorem State.idleEdge_errState (s : State) : (s.idleEdge).errState = s.errState := rfl

@[simp] theorem State.idleEdge_errCmd (s : State) : (s.idleEdge).errCmd = s.errCmd := rfl

@[simp] theorem State.idleEdge_cfg (s : State) : (s.idleEdge).cfg = s.cfg := rfl

@[simp] theorem State.idleEdge_host (s : State) : (s.idleEdge).host = s.host := rfl

@[simp] theorem State.idleEdge_line (s : State) : (s.idleEdge).line = holdLine s.tx 1 s.line := rfl

@[simp] theorem State.idleEdge_returned (s : State) : (s.idleEdge).returned = s.returned := rfl

/-! ### The host moving on -/

@[simp] theorem State.hostFrom_buf (s : State) (s0 : State) : (s.hostFrom s0).buf = s.buf := rfl

@[simp] theorem State.hostFrom_configured (s : State) (s0 : State) : (s.hostFrom s0).configured = s.configured := rfl

@[simp] theorem State.hostFrom_phase (s : State) (s0 : State) : (s.hostFrom s0).phase = s.phase := rfl

@[simp] theorem State.hostFrom_seg (s : State) (s0 : State) : (s.hostFrom s0).seg = s.seg := rfl

@[simp] theorem State.hostFrom_cnt (s : State) (s0 : State) : (s.hostFrom s0).cnt = s.cnt := rfl

@[simp] theorem State.hostFrom_tx (s : State) (s0 : State) : (s.hostFrom s0).tx = s.tx := rfl

@[simp] theorem State.hostFrom_errState (s : State) (s0 : State) : (s.hostFrom s0).errState = s.errState := rfl

@[simp] theorem State.hostFrom_errCmd (s : State) (s0 : State) : (s.hostFrom s0).errCmd = s.errCmd := rfl

@[simp] theorem State.hostFrom_cfg (s : State) (s0 : State) : (s.hostFrom s0).cfg = s.cfg := rfl

@[simp] theorem State.hostFrom_host (s : State) (s0 : State) : (s.hostFrom s0).host = hostAfter s0 s.phase := rfl

@[simp] theorem State.hostFrom_line (s : State) (s0 : State) : (s.hostFrom s0).line = s.line := rfl

@[simp] theorem State.hostFrom_returned (s : State) (s0 : State) : (s.hostFrom s0).returned = s.returned := rfl

/-! ### SETUP's effect -/

@[simp] theorem State.setupEffect_buf (s : State) (id : Byte) : (s.setupEffect id).buf = writeId id (writeType s.buf) := rfl

@[simp] theorem State.setupEffect_configured (s : State) (id : Byte) : (s.setupEffect id).configured = true := rfl

@[simp] theorem State.setupEffect_phase (s : State) (id : Byte) : (s.setupEffect id).phase = s.phase := rfl

@[simp] theorem State.setupEffect_seg (s : State) (id : Byte) : (s.setupEffect id).seg = s.seg := rfl

@[simp] theorem State.setupEffect_cnt (s : State) (id : Byte) : (s.setupEffect id).cnt = s.cnt := rfl

@[simp] theorem State.setupEffect_tx (s : State) (id : Byte) : (s.setupEffect id).tx = s.tx := rfl

@[simp] theorem State.setupEffect_errState (s : State) (id : Byte) : (s.setupEffect id).errState = s.errState := rfl

@[simp] theorem State.setupEffect_errCmd (s : State) (id : Byte) : (s.setupEffect id).errCmd = s.errCmd := rfl

@[simp] theorem State.setupEffect_cfg (s : State) (id : Byte) : (s.setupEffect id).cfg = s.cfg := rfl

@[simp] theorem State.setupEffect_host (s : State) (id : Byte) : (s.setupEffect id).host = s.host := rfl

@[simp] theorem State.setupEffect_line (s : State) (id : Byte) : (s.setupEffect id).line = s.line := rfl

@[simp] theorem State.setupEffect_returned (s : State) (id : Byte) : (s.setupEffect id).returned = s.returned := rfl

/-! ### The start of a frame -/

@[simp] theorem State.startFrame_buf (s : State) (m : Memory) : (s.startFrame m).buf = m := rfl

@[simp] theorem State.startFrame_configured (s : State) (m : Memory) : (s.startFrame m).configured = s.configured := rfl

@[simp] theorem State.startFrame_phase (s : State) (m : Memory) : (s.startFrame m).phase = .tx := rfl

@[simp] theorem State.startFrame_seg (s : State) (m : Memory) : (s.startFrame m).seg = 0#8 := rfl

@[simp] theorem State.startFrame_cnt (s : State) (m : Memory) : (s.startFrame m).cnt = 0 := rfl

@[simp] theorem State.startFrame_tx (s : State) (m : Memory) : (s.startFrame m).tx = level m 0 := rfl

@[simp] theorem State.startFrame_errState (s : State) (m : Memory) : (s.startFrame m).errState = s.errState := rfl

@[simp] theorem State.startFrame_errCmd (s : State) (m : Memory) : (s.startFrame m).errCmd = s.errCmd := rfl

@[simp] theorem State.startFrame_cfg (s : State) (m : Memory) : (s.startFrame m).cfg = s.cfg := rfl

@[simp] theorem State.startFrame_host (s : State) (m : Memory) : (s.startFrame m).host = s.host := rfl

@[simp] theorem State.startFrame_line (s : State) (m : Memory) : (s.startFrame m).line = ⟨level m 0, 0⟩ :: s.line := rfl

@[simp] theorem State.startFrame_returned (s : State) (m : Memory) : (s.startFrame m).returned = s.returned := rfl

/-! ### A word on the port -/

@[simp] theorem State.withFetchWord_buf (s : State) (nbits w : Nat) : (s.withFetchWord nbits w).buf = s.buf := rfl

@[simp] theorem State.withFetchWord_configured (s : State) (nbits w : Nat) : (s.withFetchWord nbits w).configured = s.configured := rfl

@[simp] theorem State.withFetchWord_phase (s : State) (nbits w : Nat) : (s.withFetchWord nbits w).phase = .idle := rfl

@[simp] theorem State.withFetchWord_seg (s : State) (nbits w : Nat) : (s.withFetchWord nbits w).seg = s.seg := rfl

@[simp] theorem State.withFetchWord_cnt (s : State) (nbits w : Nat) : (s.withFetchWord nbits w).cnt = s.cnt := rfl

@[simp] theorem State.withFetchWord_tx (s : State) (nbits w : Nat) : (s.withFetchWord nbits w).tx = s.tx := rfl

@[simp] theorem State.withFetchWord_errState (s : State) (nbits w : Nat) : (s.withFetchWord nbits w).errState = s.errState := rfl

@[simp] theorem State.withFetchWord_errCmd (s : State) (nbits w : Nat) : (s.withFetchWord nbits w).errCmd = s.errCmd := rfl

@[simp] theorem State.withFetchWord_cfg (s : State) (nbits w : Nat) : (s.withFetchWord nbits w).cfg = s.cfg := rfl

@[simp] theorem State.withFetchWord_host (s : State) (nbits w : Nat) : (s.withFetchWord nbits w).host = .ports (.present (unpackCW s.cfg (w % 2 ^ nbits))) :: s.host := rfl

@[simp] theorem State.withFetchWord_line (s : State) (nbits w : Nat) : (s.withFetchWord nbits w).line = s.line := rfl

@[simp] theorem State.withFetchWord_returned (s : State) (nbits w : Nat) : (s.withFetchWord nbits w).returned = s.returned := rfl

/-! ### The start of a run (R183) -/

@[simp] theorem State.startRun_buf (s : State) (p : List HostLine) : (s.startRun p).buf = s.buf := rfl

@[simp] theorem State.startRun_configured (s : State) (p : List HostLine) : (s.startRun p).configured = s.configured := rfl

@[simp] theorem State.startRun_phase (s : State) (p : List HostLine) : (s.startRun p).phase = s.phase := rfl

@[simp] theorem State.startRun_seg (s : State) (p : List HostLine) : (s.startRun p).seg = s.seg := rfl

@[simp] theorem State.startRun_cnt (s : State) (p : List HostLine) : (s.startRun p).cnt = s.cnt := rfl

@[simp] theorem State.startRun_tx (s : State) (p : List HostLine) : (s.startRun p).tx = s.tx := rfl

@[simp] theorem State.startRun_errState (s : State) (p : List HostLine) : (s.startRun p).errState = s.errState := rfl

@[simp] theorem State.startRun_errCmd (s : State) (p : List HostLine) : (s.startRun p).errCmd = s.errCmd := rfl

@[simp] theorem State.startRun_cfg (s : State) (p : List HostLine) : (s.startRun p).cfg = s.cfg := rfl

@[simp] theorem State.startRun_host (s : State) (p : List HostLine) : (s.startRun p).host = p := rfl

@[simp] theorem State.startRun_line (s : State) (p : List HostLine) : (s.startRun p).line = [] := rfl

@[simp] theorem State.startRun_returned (s : State) (p : List HostLine) : (s.startRun p).returned = s.returned := rfl

end Sys2Proof.Machine
end

