-- ==== Sys2Proof/Laws/Memory.lean ====
section
/-! SUPPORT. The buffer: a read after a write, the canonical form that every write keeps, and equality of canonical buffers. -/

namespace Sys2Proof.Machine

@[simp] theorem Memory.read_nil (a : Nat) : Memory.read [] a = 0#8 := rfl

theorem Memory.read_put_same (m : Memory) (a : Nat) (v : Byte) : (m.put a v).read a = v := by
  induction m with
  | nil => simp [Memory.put, Memory.read]
  | cons c m ih =>
    obtain ⟨b, w⟩ := c
    simp only [Memory.put]
    split
    · simp [Memory.read]
    · split
      · simp [Memory.read]
      · have : b ≠ a := by omega
        simpa [Memory.read, this] using ih

theorem Memory.read_put_other (m : Memory) {a b : Nat} (v : Byte) (h : b ≠ a) : (m.put a v).read b = m.read b := by
  induction m with
  | nil => simp [Memory.put, Memory.read, h.symm]
  | cons c m ih =>
    obtain ⟨d, w⟩ := c
    simp only [Memory.put]
    split
    · simp [Memory.read, h.symm]
    · split
      · rename_i e; subst e; simp [Memory.read, h.symm]
      · simp [Memory.read, ih]

theorem Memory.read_erase_same (m : Memory) (a : Nat) : (m.erase a).read a = 0#8 := by
  induction m with
  | nil => rfl
  | cons c m ih =>
    obtain ⟨b, w⟩ := c
    simp only [Memory.erase]
    split
    · exact ih
    · rename_i h; simpa [Memory.read, Ne.symm h] using ih

theorem Memory.read_erase_other (m : Memory) {a b : Nat} (h : b ≠ a) : (m.erase a).read b = m.read b := by
  induction m with
  | nil => rfl
  | cons c m ih =>
    obtain ⟨d, w⟩ := c
    simp only [Memory.erase]
    split
    · rename_i e; subst e; simp [Memory.read, h.symm, ih]
    · simp [Memory.read, ih]

/-- A read of the address written gives the byte written. -/
@[simp] theorem Memory.read_write_same (m : Memory) (a : Nat) (v : Byte) : (m.write a v).read a = v := by
  unfold Memory.write
  split
  · rename_i h; rw [h]; exact m.read_erase_same a
  · exact m.read_put_same a v

/-- A read of another address gives what it gave before. -/
theorem Memory.read_write_other (m : Memory) {a b : Nat} (v : Byte) (h : b ≠ a) : (m.write a v).read b = m.read b := by
  unfold Memory.write
  split
  · exact m.read_erase_other h
  · exact m.read_put_other v h

/-- A read after a write, by cases on the address. -/
theorem Memory.read_write (m : Memory) (a b : Nat) (v : Byte) :
    (m.write a v).read b = if b = a then v else m.read b := by
  split
  · rename_i h; rw [h, Memory.read_write_same]
  · rename_i h; exact m.read_write_other v h

/-- A read of an address that none of the writes names gives what it gave before. -/
theorem Memory.read_writeAll_other (m : Memory) (l : List (Nat × Byte)) (b : Nat) (h : ∀ p ∈ l, p.1 ≠ b) :
    (m.writeAll l).read b = m.read b := by
  induction l generalizing m with
  | nil => rfl
  | cons p l ih =>
    obtain ⟨a, v⟩ := p
    rw [Memory.writeAll, ih _ fun q hq => h q (List.mem_cons_of_mem _ hq)]
    exact m.read_write_other v (h (a, v) List.mem_cons_self).symm

/-! ### The canonical form -/

theorem Memory.wfFrom_mono {lo lo' : Nat} (h : lo ≤ lo') (m : Memory) (w : Memory.wfFrom lo' m = true) :
    Memory.wfFrom lo m = true := by
  cases m with
  | nil => rfl
  | cons c m =>
    obtain ⟨a, v⟩ := c
    simp only [Memory.wfFrom, Bool.and_eq_true, decide_eq_true_eq] at w ⊢
    exact ⟨⟨⟨h.trans w.1.1.1, w.1.1.2⟩, w.1.2⟩, w.2⟩

theorem Memory.wfFrom_put {lo : Nat} (m : Memory) {a : Nat} {v : Byte} (hlo : lo ≤ a) (ha : a < bufLen) (hv : v ≠ 0#8)
    (w : Memory.wfFrom lo m = true) : Memory.wfFrom lo (m.put a v) = true := by
  induction m generalizing lo with
  | nil => simp [Memory.put, Memory.wfFrom, hlo, ha, hv]
  | cons c m ih =>
    obtain ⟨b, x⟩ := c
    simp only [Memory.wfFrom, Bool.and_eq_true, decide_eq_true_eq] at w
    obtain ⟨⟨⟨hb, hb'⟩, hx⟩, hm⟩ := w
    simp only [Memory.put]
    split
    · rename_i h; simp [Memory.wfFrom, hlo, ha, hv, hb', hx, hm]; omega
    · split
      · rename_i h; subst h; simp [Memory.wfFrom, hlo, ha, hv, hm]
      · simp [Memory.wfFrom, hb, hb', hx, ih (by omega) hm]

theorem Memory.wfFrom_erase {lo : Nat} (m : Memory) (a : Nat) (w : Memory.wfFrom lo m = true) :
    Memory.wfFrom lo (m.erase a) = true := by
  induction m generalizing lo with
  | nil => rfl
  | cons c m ih =>
    obtain ⟨b, x⟩ := c
    simp only [Memory.wfFrom, Bool.and_eq_true, decide_eq_true_eq] at w
    obtain ⟨⟨⟨hb, hb'⟩, hx⟩, hm⟩ := w
    simp only [Memory.erase]
    split
    · exact Memory.wfFrom_mono (by omega) _ (ih hm)
    · simp [Memory.wfFrom, hb, hb', hx, ih hm]

/-- A write to an address of the buffer keeps the canonical form. -/
theorem Memory.wf_write {m : Memory} {a : Nat} (v : Byte) (w : m.wf = true) (ha : a < bufLen) :
    (m.write a v).wf = true := by
  unfold Memory.write Memory.wf
  split
  · exact Memory.wfFrom_erase m a w
  · rename_i hv; exact Memory.wfFrom_put m (Nat.zero_le a) ha hv w

/-- Several writes to addresses of the buffer keep the canonical form. -/
theorem Memory.wf_writeAll {m : Memory} (l : List (Nat × Byte)) (w : m.wf = true) (h : ∀ p ∈ l, p.1 < bufLen) :
    (m.writeAll l).wf = true := by
  induction l generalizing m with
  | nil => exact w
  | cons p l ih =>
    obtain ⟨a, v⟩ := p
    exact ih (Memory.wf_write v w (h (a, v) List.mem_cons_self)) fun q hq => h q (List.mem_cons_of_mem _ hq)

/-- The buffer is in canonical form at reset. -/
theorem State.reset_buf_wf : State.reset.buf.wf = true := rfl

theorem Memory.read_below {lo : Nat} {m : Memory} {a : Nat} (w : Memory.wfFrom lo m = true) (h : a < lo) :
    m.read a = 0#8 := by
  induction m generalizing lo with
  | nil => rfl
  | cons c m ih =>
    obtain ⟨b, x⟩ := c
    simp only [Memory.wfFrom, Bool.and_eq_true, decide_eq_true_eq] at w
    obtain ⟨⟨⟨hb, -⟩, -⟩, hm⟩ := w
    have : b ≠ a := by omega
    simpa [Memory.read, this] using ih hm (by omega)

theorem Memory.eq_of_wfFrom {lo : Nat} {m m' : Memory} (w : Memory.wfFrom lo m = true) (w' : Memory.wfFrom lo m' = true)
    (h : ∀ a, m.read a = m'.read a) : m = m' := by
  induction m generalizing lo m' with
  | nil =>
    cases m' with
    | nil => rfl
    | cons c m' =>
      obtain ⟨b, x⟩ := c
      simp only [Memory.wfFrom, Bool.and_eq_true, decide_eq_true_eq] at w'
      have := h b
      simp [Memory.read] at this
      exact absurd this.symm w'.1.2
  | cons c m ih =>
    obtain ⟨b, x⟩ := c
    have wc := w
    simp only [Memory.wfFrom, Bool.and_eq_true, decide_eq_true_eq] at w
    obtain ⟨⟨⟨hb, -⟩, hx⟩, hm⟩ := w
    have hbx : m'.read b = x := by rw [← h b]; simp [Memory.read]
    cases m' with
    | nil => exact absurd hbx.symm hx
    | cons c' m' =>
      obtain ⟨d, y⟩ := c'
      have wc' := w'
      simp only [Memory.wfFrom, Bool.and_eq_true, decide_eq_true_eq] at w'
      obtain ⟨⟨⟨hd, -⟩, hy⟩, hm'⟩ := w'
      have hdy : Memory.read ((b, x) :: m) d = y := by rw [h d]; simp [Memory.read]
      have hbd : b = d := by
        rcases Nat.lt_trichotomy b d with hlt | he | hgt
        · have e : Memory.read ((d, y) :: m') b = 0#8 := by
            have : d ≠ b := by omega
            simpa [Memory.read, this] using Memory.read_below hm' (by omega)
          exact absurd (hbx.symm.trans e) hx
        · exact he
        · have e : Memory.read ((b, x) :: m) d = 0#8 := by
            have : b ≠ d := by omega
            simpa [Memory.read, this] using Memory.read_below hm (by omega)
          exact absurd (hdy.symm.trans e) hy
      subst hbd
      have hxy : x = y := by simpa [Memory.read] using hbx.symm
      subst hxy
      congr 1
      refine ih hm hm' fun a => ?_
      by_cases hab : b = a
      · subst hab; rw [Memory.read_below hm (by omega), Memory.read_below hm' (by omega)]
      · have := h a
        simpa [Memory.read, hab] using this

/-- Canonical buffers that read alike are the same data. -/
theorem Memory.eq_of_wf {m m' : Memory} (w : m.wf = true) (w' : m'.wf = true) (h : ∀ a, m.read a = m'.read a) : m = m' :=
  Memory.eq_of_wfFrom w w' h

/-- A canonical buffer reads 0x00 at every address that does not exist. -/
theorem Memory.read_outside {m : Memory} {a : Nat} (w : m.wf = true) (ha : bufLen ≤ a) : m.read a = 0#8 := by
  have : ∀ lo, Memory.wfFrom lo m = true → m.read a = 0#8 := by
    induction m with
    | nil => intros; rfl
    | cons c m ih =>
      obtain ⟨b, x⟩ := c
      intro lo w
      simp only [Memory.wfFrom, Bool.and_eq_true, decide_eq_true_eq] at w
      have hb : b ≠ a := by omega
      have hm := w.2
      simpa [Memory.read, hb] using ih (Memory.wfFrom_mono (Nat.zero_le _) _ hm) _ hm
  exact this 0 w

end Sys2Proof.Machine
end

