-- ==== Sys2Proof/Laws/Packing.lean ====
section
/-! SUPPORT. What each packing operation leaves at each address of the buffer, and that each keeps the canonical form. -/

namespace Sys2Proof.Machine

/-! ### Nibbles and bytes -/

theorem and_low_nibble (x : Nat) : x &&& 0xF = x % 16 := Nat.and_two_pow_sub_one_eq_mod x 4

theorem and_low_byte (x : Nat) : x &&& 0xFF = x % 256 := Nat.and_two_pow_sub_one_eq_mod x 8

theorem nibLo_eq (b : Byte) : nibLo b = b.toNat % 16 := and_low_nibble _

theorem nibHi_eq (b : Byte) : nibHi b = b.toNat / 16 := by
  have := b.isLt
  rw [nibHi, and_low_nibble, Nat.shiftRight_eq_div_pow]
  omega

@[simp] theorem byteOf_toNat (v : Nat) : (byteOf v).toNat = v % 256 := by simp [byteOf]

/-- A low nibble or-ed with a nibble above it. -/
theorem or_shiftLeft_four {x : Nat} (h : x < 16) (y : Nat) : x ||| (y <<< 4) = x + y * 16 := by
  rw [Nat.lor_comm, ← Nat.shiftLeft_add_eq_or_of_lt (i := 4) h, Nat.shiftLeft_eq, Nat.add_comm]

/-- The checksum's view of a sum is its twelve-bit two's complement (R152, D26). -/
theorem sumBits_eq (z : Int) : sumBits z = (BitVec.ofInt 12 z).toNat := by rw [BitVec.toNat_ofInt]; rfl

/-! ### setType and setId -/

theorem read_writeType (m : Memory) (a : Nat) :
    (writeType m).read a = if a = 0 then type0 else if a = 1 then type1 else m.read a := by
  unfold writeType
  simp only [Memory.writeAll, Memory.read_write]
  split_ifs <;> first | rfl | omega

theorem read_writeId (id : Byte) (m : Memory) (a : Nat) : (writeId id m).read a = if a = 2 then id else m.read a :=
  Memory.read_write m 2 a id

/-- SETUP's three bytes, and all the others as before (R171). -/
theorem read_setup (id : Byte) (m : Memory) (a : Nat) :
    (writeId id (writeType m)).read a =
      if a = 0 then type0 else if a = 1 then type1 else if a = 2 then id else m.read a := by
  rw [read_writeId, read_writeType]
  split_ifs <;> first | rfl | omega

theorem wf_writeType {m : Memory} (w : m.wf = true) : (writeType m).wf = true :=
  Memory.wf_writeAll _ w (by simp [bufLen])

theorem wf_writeId (id : Byte) {m : Memory} (w : m.wf = true) : (writeId id m).wf = true :=
  Memory.wf_write id w (by simp [bufLen])

/-! ### setConsumption -/

theorem mem_consumptionBytes_addr {r a : Nat} {p : Nat × Byte} (h : p ∈ consumptionBytes r a) : 3 ≤ p.1 ∧ p.1 ≤ 10 := by
  simp only [consumptionBytes, List.mem_cons, List.not_mem_nil, or_false] at h
  rcases h with h | h | h | h | h | h | h | h <;> subst h <;> simp

theorem read_packConsumption_other (rt acc : Nat) (m : Memory) {a : Nat} (h : a < 3 ∨ 10 < a) :
    (packConsumption rt acc m).read a = m.read a := by
  refine Memory.read_writeAll_other _ _ _ fun p hp e => ?_
  have := mem_consumptionBytes_addr hp
  omega

theorem read_packConsumption (rt acc : Nat) (m : Memory) {p : Nat × Byte}
    (h : p ∈ consumptionBytes (scaleRealtime rt) (scaleAccumulated acc)) : (packConsumption rt acc m).read p.1 = p.2 := by
  unfold packConsumption
  simp only [consumptionBytes, List.mem_cons, List.not_mem_nil, or_false] at h
  rcases h with h | h | h | h | h | h | h | h <;> subst h <;>
    simp [consumptionBytes, Memory.writeAll, Memory.read_write]

/-- The eight bytes setConsumption writes, byte by byte (R132). -/
theorem reads_packConsumption (rt acc : Nat) (m : Memory) :
    (packConsumption rt acc m).read 3 = byteOf ((scaleRealtime rt &&& 0xF) <<< 4) ∧
    (packConsumption rt acc m).read 4 = byteOf ((scaleRealtime rt >>> 4) &&& 0xFF) ∧
    (packConsumption rt acc m).read 5 =
      byteOf (((scaleRealtime rt >>> 12) &&& 0xF) ||| ((scaleAccumulated acc &&& 0xF) <<< 4)) ∧
    (packConsumption rt acc m).read 6 = byteOf ((scaleAccumulated acc >>> 4) &&& 0xFF) ∧
    (packConsumption rt acc m).read 7 = byteOf ((scaleAccumulated acc >>> 12) &&& 0xFF) ∧
    (packConsumption rt acc m).read 8 = byteOf ((scaleAccumulated acc >>> 20) &&& 0xFF) ∧
    (packConsumption rt acc m).read 9 = byteOf ((scaleAccumulated acc >>> 28) &&& 0xFF) ∧
    (packConsumption rt acc m).read 10 = byteOf ((scaleAccumulated acc >>> 36) &&& 0xFF) := by
  refine ⟨?_, ?_, ?_, ?_, ?_, ?_, ?_, ?_⟩ <;>
    simp [packConsumption, consumptionBytes, Memory.writeAll, Memory.read_write]

theorem wf_packConsumption (rt acc : Nat) {m : Memory} (w : m.wf = true) : (packConsumption rt acc m).wf = true := by
  refine Memory.wf_writeAll _ w fun p hp => ?_
  have := mem_consumptionBytes_addr hp
  simp only [bufLen]
  omega

/-! ### The checksum -/

theorem nibbleTotal_congr {m m' : Memory} : ∀ {n : Nat}, (∀ a, a < n → m.read a = m'.read a) → nibbleTotal m n = nibbleTotal m' n
  | 0, _ => rfl
  | n + 1, h => by
    rw [nibbleTotal, nibbleTotal, nibbleTotal_congr fun a ha => h a (by omega), h n (by omega)]

/-- The nibble sum depends on the summed bytes alone. -/
theorem nibbleSum_congr {m m' : Memory} {n : Nat} (h : ∀ a, a < n → m.read a = m'.read a) :
    nibbleSum n m = nibbleSum n m' := by
  rw [nibbleSum, nibbleSum, nibbleTotal_congr h]

theorem read_placeChecksum_other (m : Memory) {a : Nat} (h : a ≠ 11) (h' : a ≠ 12) :
    (placeChecksum m).read a = m.read a := by
  refine Memory.read_writeAll_other _ _ _ fun p hp e => ?_
  simp only [checksumBytes, List.mem_cons, List.not_mem_nil, or_false] at hp
  rcases hp with hp | hp <;> subst hp <;> simp_all

theorem read_placeChecksum (m : Memory) {p : Nat × Byte} (h : p ∈ checksumBytes (nibbleSum sumCount m)) :
    (placeChecksum m).read p.1 = p.2 := by
  unfold placeChecksum
  simp only [checksumBytes, List.mem_cons, List.not_mem_nil, or_false] at h
  rcases h with h | h <;> subst h <;> simp [checksumBytes, Memory.writeAll, Memory.read_write]

theorem wf_placeChecksum {m : Memory} (w : m.wf = true) : (placeChecksum m).wf = true := by
  refine Memory.wf_writeAll _ w fun p hp => ?_
  simp only [checksumBytes, List.mem_cons, List.not_mem_nil, or_false] at hp
  rcases hp with hp | hp <;> subst hp <;> simp [bufLen]

/-- The sum over the first eleven bytes is the same before and after the checksum is placed (R152). -/
theorem nibbleSum_placeChecksum (m : Memory) : nibbleSum 11 (placeChecksum m) = nibbleSum 11 m :=
  nibbleSum_congr fun _ h => read_placeChecksum_other m (by omega) (by omega)

/-! ### The message of a SEND -/

theorem read_messageOf_low (rt acc : Nat) (m : Memory) {a : Nat} (h : a < 3) : (messageOf rt acc m).read a = m.read a := by
  rw [messageOf, read_placeChecksum_other _ (by omega) (by omega), read_packConsumption_other _ _ _ (.inl h)]

theorem read_messageOf_high (rt acc : Nat) (m : Memory) {a : Nat} (h : 12 < a) : (messageOf rt acc m).read a = m.read a := by
  rw [messageOf, read_placeChecksum_other _ (by omega) (by omega), read_packConsumption_other _ _ _ (.inr (by omega))]

theorem read_messageOf_consumption (rt acc : Nat) (m : Memory) {p : Nat × Byte}
    (h : p ∈ consumptionBytes (scaleRealtime rt) (scaleAccumulated acc)) : (messageOf rt acc m).read p.1 = p.2 := by
  have := mem_consumptionBytes_addr h
  rw [messageOf, read_placeChecksum_other _ (by omega) (by omega), read_packConsumption rt acc m h]

theorem read_messageOf_checksum (rt acc : Nat) (m : Memory) {p : Nat × Byte}
    (h : p ∈ checksumBytes (nibbleSum 11 (messageOf rt acc m))) : (messageOf rt acc m).read p.1 = p.2 := by
  refine read_placeChecksum _ ?_
  rwa [messageOf, nibbleSum_placeChecksum] at h

/-- Below the checksum a message is the packed buffer. -/
theorem read_messageOf_below (rt acc : Nat) (m : Memory) {a : Nat} (h : a < 11) :
    (messageOf rt acc m).read a = (packConsumption rt acc m).read a :=
  read_placeChecksum_other _ (by omega) (by omega)

/-- The sum of a message is the sum of the packed buffer. -/
theorem nibbleSum_messageOf (rt acc : Nat) (m : Memory) :
    nibbleSum 11 (messageOf rt acc m) = nibbleSum 11 (packConsumption rt acc m) := nibbleSum_placeChecksum _

/-- The two bytes the checksum writes, byte by byte (R152). -/
theorem reads_placeChecksum (m : Memory) :
    (placeChecksum m).read 11 =
      byteOf (((sumBits (nibbleSum 11 m) &&& 0xF) <<< 4) ||| ((sumBits (nibbleSum 11 m) >>> 8) &&& 0xF)) ∧
    (placeChecksum m).read 12 = byteOf ((sumBits (nibbleSum 11 m) >>> 4) &&& 0xF) :=
  ⟨read_placeChecksum m List.mem_cons_self, read_placeChecksum m (.tail _ List.mem_cons_self)⟩

theorem wf_messageOf (rt acc : Nat) {m : Memory} (w : m.wf = true) : (messageOf rt acc m).wf = true :=
  wf_placeChecksum (wf_packConsumption rt acc w)

end Sys2Proof.Machine
end

