-- ==== Sys2Proof/Laws/Line.lean ====
section
/-! SUPPORT. The line: what a segment, a bit and a run of bits do to the state, said once; the frame's bits and levels. -/

namespace Sys2Proof.Machine

/-- The segments of some bits, each two half-bits of `t` cycles, oldest first (R80). -/
def bitSegments (t : Nat) (vs : List Bit) : List Segment := vs.flatMap fun v => [⟨v, t⟩, ⟨!v, t⟩]

@[simp] theorem bitSegments_nil (t : Nat) : bitSegments t [] = [] := rfl

@[simp] theorem bitSegments_cons (t : Nat) (v : Bit) (vs : List Bit) :
    bitSegments t (v :: vs) = ⟨v, t⟩ :: ⟨!v, t⟩ :: bitSegments t vs := rfl

theorem bitSegments_append (t : Nat) (vs ws : List Bit) : bitSegments t (vs ++ ws) = bitSegments t vs ++ bitSegments t ws :=
  List.flatMap_append

@[simp] theorem holdLine_same (l : Bit) (n k : Nat) (r : List Segment) : holdLine l n (⟨l, k⟩ :: r) = ⟨l, k + n⟩ :: r := by
  simp [holdLine]

/-- The newest segment of a held record has the level held. -/
theorem holdLine_head (l : Bit) (n : Nat) (r : List Segment) : ∀ g ∈ (holdLine l n r).head?, g.level = l := by
  intro g hg
  cases r with
  | nil => simp [holdLine] at hg; subst hg; rfl
  | cons a r =>
    simp only [holdLine] at hg
    split at hg
    · simp at hg; subst hg; assumption
    · simp at hg; subst hg; rfl

/-- One segment: `TX` takes the level, and the record gains a segment of `T_HALF_CYCLES` cycles. -/
theorem State.segment_eq (s : State) (l : Bit) : s.segment l = { s with tx := l, line := ⟨l, s.cfg.tHalf⟩ :: s.line } := by
  simp [State.segment, State.drive, State.opened, State.hold]

/-- sendBit's two segments (R100, R101, R103). -/
theorem State.oneOrZero_eq (s : State) (v : Bit) :
    s.oneOrZero v = { s with tx := !v, line := ⟨!v, s.cfg.tHalf⟩ :: ⟨v, s.cfg.tHalf⟩ :: s.line } := by
  cases v <;> simp [State.oneOrZero, State.oneBit, State.zeroBit, State.segment_eq]

/-- The line after some bits: the second half of the last one. -/
def lastLevel : Bit → List Bit → Bit
  | l, [] => l
  | _, v :: vs => lastLevel (!v) vs

/-- A run of bits changes `TX` and the record, and nothing else. -/
theorem State.bits_eq (s : State) (vs : List Bit) :
    s.bits vs = { s with tx := lastLevel s.tx vs, line := (bitSegments s.cfg.tHalf vs).reverse ++ s.line } := by
  induction vs generalizing s with
  | nil => rfl
  | cons v vs ih => rw [State.bits, ih, State.oneOrZero_eq]; simp [lastLevel]

theorem lastLevel_append (l : Bit) (vs ws : List Bit) : lastLevel l (vs ++ ws) = lastLevel (lastLevel l vs) ws := by
  induction vs generalizing l with
  | nil => rfl
  | cons v vs ih => exact ih _

theorem State.bits_append (s : State) (vs ws : List Bit) : s.bits (vs ++ ws) = (s.bits vs).bits ws := by
  rw [State.bits_eq, State.bits_eq s vs, State.bits_eq]
  simp [bitSegments_append, lastLevel_append]

/-! ### The frame's bits -/

theorem frameBit_preamble (m : Memory) {n : Nat} (h : n < 10) : frameBit m n = true := by simp [frameBit, nPre, h]

theorem frameBit_data (m : Memory) {d : Nat} (h : d < 104) : frameBit m (10 + d) = m.bit (d / 8) (d % 8) := by
  have : 10 + d < 114 := by omega
  simp [frameBit, nPre, nData, this]

theorem frameBit_postamble (m : Memory) {n : Nat} (h : 114 ≤ n) : frameBit m n = false := by
  have : ¬n < 10 := by omega
  have : ¬n < 114 := by omega
  simp [frameBit, nPre, nData, *]

theorem level_even (m : Memory) (n : Nat) : level m (2 * n) = frameBit m n := by simp [level]

theorem level_odd (m : Memory) (n : Nat) : level m (2 * n + 1) = !frameBit m n := by
  have : (2 * n + 1) / 2 = n := by omega
  simp [level, this, Nat.add_mod]

/-- The first segment of every frame is high (R108). -/
@[simp] theorem level_zero (m : Memory) : level m 0 = true := rfl

end Sys2Proof.Machine
end

