-- ==== Sys2Proof/Laws/PerInstr.lean ====
section
/-! SUPPORT. A statement made instruction by instruction: the command word of a well-formed instruction has no bit above the word
(R76). The internal operations have no word, so for them it says that they have none. -/

namespace Sys2Proof.Laws

/-- A tuple whose readings fit their ports makes a word of `2 + 8 + W_RT + W_ACC` bits (R76). -/
theorem packCW_lt {c : Config} {k : Command} (hr : FitsRt c k.rt) (ha : FitsAcc c k.acc) : packCW c k < 2 ^ c.cwBits := by
  have ho := k.op.isLt
  have hi := k.id.isLt
  have e : 2 ^ (10 + c.wRt) = 1024 * 2 ^ c.wRt := by rw [pow_add]; norm_num
  have low : k.op.toNat + 2 ^ 2 * k.id.toNat + 2 ^ 10 * k.rt < 2 ^ (10 + c.wRt) := by rw [e]; omega
  have w : 2 ^ c.cwBits = 2 ^ (10 + c.wRt) * 2 ^ c.wAcc := by rw [← pow_add]; rfl
  rw [w, packCW]
  nlinarith

namespace EncodeFits

/-- A well-formed instruction's command word, where it has one, fits the word; an internal operation has none. -/
def Statement (i : Instr) : Prop := ∀ c w, WellFormed c i → encodeWord c i = some w → w < 2 ^ c.cwBits

theorem of_command {i : Instr} {k : Command} (h : commandOf i = some k)
    (hk : ∀ c, WellFormed c i → FitsRt c k.rt ∧ FitsAcc c k.acc) : Statement i := by
  intro c w hw he
  rw [encodeWord, h] at he
  cases he
  exact packCW_lt (hk c hw).1 (hk c hw).2

theorem of_none {i : Instr} (h : commandOf i = none) : Statement i := by
  intro c w _ he
  rw [encodeWord, h] at he
  cases he

/-- Operand fields of 0 fit every port. -/
theorem zero_fits (c : Config) : FitsRt c 0 ∧ FitsAcc c 0 := ⟨Nat.two_pow_pos _, Nat.two_pow_pos _⟩

theorem setup (id : Byte) : Statement (.setup id) := of_command rfl fun c _ => zero_fits c

theorem send (rt acc : Nat) : Statement (.send rt acc) := of_command rfl fun _ h => h

theorem rsvd0 : Statement .rsvd0 := of_command rfl fun c _ => zero_fits c

theorem rsvd3 : Statement .rsvd3 := of_command rfl fun c _ => zero_fits c

theorem sendZero : Statement .sendZero := of_none rfl

theorem sendOne : Statement .sendOne := of_none rfl

theorem sendBit (v : Bit) : Statement (.sendBit v) := of_none rfl

theorem sendPreamble : Statement .sendPreamble := of_none rfl

theorem sendData (size : Nat) : Statement (.sendData size) := of_none rfl

theorem sendPostamble : Statement .sendPostamble := of_none rfl

theorem sendOregon (size : Nat) : Statement (.sendOregon size) := of_none rfl

theorem sequencerStep : Statement .sequencerStep := of_none rfl

theorem setType : Statement .setType := of_none rfl

theorem setId (id : Byte) : Statement (.setId id) := of_none rfl

theorem setConsumption (rt acc : Nat) : Statement (.setConsumption rt acc) := of_none rfl

theorem scaledRealtime (rt : Nat) : Statement (.scaledRealtime rt) := of_none rfl

theorem scaledAccumulated (acc : Nat) : Statement (.scaledAccumulated acc) := of_none rfl

theorem sum (count : Nat) : Statement (.sum count) := of_none rfl

theorem calculateAndSetChecksum : Statement .calculateAndSetChecksum := of_none rfl

end EncodeFits

end Sys2Proof.Laws
end

