-- ==== Sys2Proof/Laws/Step.lean ====
section
/-! SUPPORT. What an edge can do, said once: the sequencer's three branches, a command's edge, and the inversion of `step`. -/

namespace Sys2Proof.Machine

/-! ### The sequencer (R109) -/

theorem sequencerEdge_stay {s : State} (h : s.cnt < s.cfg.tHalf - 1) :
    s.sequencerEdge = { s with cnt := s.cnt + 1, line := holdLine s.tx 1 s.line } := by
  simp [State.sequencerEdge, State.sequence, Block.sequence, h, State.hold]

theorem sequencerEdge_advance {s : State} (h : ¬s.cnt < s.cfg.tHalf - 1) (h' : s.seg.toNat < 235) :
    s.sequencerEdge =
      { s with seg := s.seg + 1#8, cnt := 0, tx := level s.buf (s.seg.toNat + 1),
               line := ⟨level s.buf (s.seg.toNat + 1), 1⟩ :: s.line } := by
  simp [State.sequencerEdge, State.sequence, Block.sequence, h, nSeg, h', State.hold, State.opened]

theorem sequencerEdge_finish {s : State} (h : ¬s.cnt < s.cfg.tHalf - 1) (h' : ¬s.seg.toNat < 235) :
    s.sequencerEdge =
      { s with phase := .idle, seg := 0#8, cnt := 0, tx := false, line := ⟨false, 1⟩ :: s.line } := by
  simp [State.sequencerEdge, State.sequence, Block.sequence, h, nSeg, h', State.hold, State.opened]

/-- One edge of a frame is one of three (R109). -/
theorem sequencerEdge_cases (s : State) :
    (s.cnt < s.cfg.tHalf - 1 ∧ s.sequencerEdge = { s with cnt := s.cnt + 1, line := holdLine s.tx 1 s.line }) ∨
    (¬s.cnt < s.cfg.tHalf - 1 ∧ s.seg.toNat < 235 ∧ s.sequencerEdge =
      { s with seg := s.seg + 1#8, cnt := 0, tx := level s.buf (s.seg.toNat + 1),
               line := ⟨level s.buf (s.seg.toNat + 1), 1⟩ :: s.line }) ∨
    (¬s.cnt < s.cfg.tHalf - 1 ∧ ¬s.seg.toNat < 235 ∧ s.sequencerEdge =
      { s with phase := .idle, seg := 0#8, cnt := 0, tx := false, line := ⟨false, 1⟩ :: s.line }) := by
  by_cases h : s.cnt < s.cfg.tHalf - 1
  · exact .inl ⟨h, sequencerEdge_stay h⟩
  · by_cases h' : s.seg.toNat < 235
    · exact .inr (.inl ⟨h, h', sequencerEdge_advance h h'⟩)
    · exact .inr (.inr ⟨h, h', sequencerEdge_finish h h'⟩)

/-! ### Commands (R170, R175) -/

theorem commandEdge_tx {s : State} (h : s.phase = .tx) (f : State → State) : s.commandEdge f = s.sequencerEdge := by
  simp [State.commandEdge, h]

theorem commandEdge_idle {s : State} (h : s.phase = .idle) (f : State → State) : s.commandEdge f = (f s).hold 1 := by
  simp [State.commandEdge, h]

theorem sendEffect_unconfigured {s : State} (h : s.configured = false) (rt acc : Nat) :
    s.sendEffect rt acc = s.raiseErrState := by
  simp [State.sendEffect, Block.send, h, State.raiseErrState]

theorem sendEffect_configured {s : State} (h : s.configured = true) (rt acc : Nat) :
    s.sendEffect rt acc = s.startFrame (messageOf rt acc s.buf) := by
  simp [State.sendEffect, Block.send, h, State.startFrame]

/-- A reading taken from the port fits it (R70, R75). -/
theorem Ports.command_fits (c : Config) (p : Ports) : FitsRt c (p.command c).rt ∧ FitsAcc c (p.command c).acc :=
  ⟨Nat.mod_lt _ (Nat.two_pow_pos _), Nat.mod_lt _ (Nat.two_pow_pos _)⟩

/-- What an accepted command tuple does to the state before the edge's cycle is recorded (R171, R172, R173). -/
def State.commandEffect (s : State) (k : Command) : State :=
  if k.op = 0b01#2 then s.setupEffect k.id
  else if k.op = 0b10#2 then s.sendEffect k.rt k.acc
  else s.raiseErrCmd

/-- A decoded command tuple runs to a next state (R73, R180). -/
theorem exec_decodeCommand {s : State} {k : Command} (hrt : FitsRt s.cfg k.rt) (hacc : FitsAcc s.cfg k.acc) :
    exec (decodeCommand k) s = .next (s.commandEdge fun s => s.commandEffect k) := by
  unfold decodeCommand
  split_ifs with h1 h2 h0
  · simp only [exec, execSetup, State.commandEdge, State.commandEffect, if_pos h1]
  · simp only [exec, execSend, State.commandEdge, State.commandEffect, if_neg h1, if_pos h2,
      if_pos (And.intro hrt hacc)]
  · simp only [exec, execRsvd0, State.commandEdge, State.commandEffect, if_neg h1, if_neg h2]
  · simp only [exec, execRsvd3, State.commandEdge, State.commandEffect, if_neg h1, if_neg h2]

/-! ### One edge (R180) -/

/-- The state after an edge with inputs `p`, before the host moves on: R180's `step(s, in)`. -/
def State.edge (s : State) (p : Ports) : State :=
  if p.rst = true then s.resetEdge
  else
    match s.phase with
    | .tx => s.sequencerEdge
    | .idle => if p.cmdValid = true then (s.commandEffect (p.command s.cfg)).hold 1 else s.idleEdge

/-- Every state has exactly one next state (R180): the edge's, with the host moved on. -/
theorem step_eq (s : State) : step s = .next ((s.edge s.ports).hostFrom s) := by
  unfold step State.fetch State.edge
  split_ifs with hr hv
  · rfl
  · cases hp : s.phase with
    | tx => simp [exec, execSequencerStep, hp]
    | idle =>
      obtain ⟨hrt, hacc⟩ := Ports.command_fits s.cfg s.ports
      simp [exec_decodeCommand hrt hacc, State.commandEdge, hp]
  · cases hp : s.phase with
    | tx => simp [exec, execSequencerStep, hp]
    | idle => simp

/-- An edge is a reset, a sequencer step, an accepted command or an idle edge, under the conditions of R180. -/
theorem edge_cases (s : State) (p : Ports) :
    (p.rst = true ∧ s.edge p = s.resetEdge) ∨
    (p.rst = false ∧ s.phase = .tx ∧ s.edge p = s.sequencerEdge) ∨
    (p.rst = false ∧ s.phase = .idle ∧ p.cmdValid = true ∧ s.edge p = (s.commandEffect (p.command s.cfg)).hold 1) ∨
    (p.rst = false ∧ s.phase = .idle ∧ p.cmdValid = false ∧ s.edge p = s.idleEdge) := by
  unfold State.edge
  cases p.rst <;> cases s.phase <;> cases p.cmdValid <;> simp

/-- What an accepted command can do: configure, raise one of the errors, or start a frame (R171, R172, R173). -/
theorem commandEffect_cases (s : State) (k : Command) :
    (k.op = 0b01#2 ∧ s.commandEffect k = s.setupEffect k.id) ∨
    (k.op = 0b10#2 ∧ s.configured = false ∧ s.commandEffect k = s.raiseErrState) ∨
    (k.op = 0b10#2 ∧ s.configured = true ∧ s.commandEffect k = s.startFrame (messageOf k.rt k.acc s.buf)) ∨
    (k.op ≠ 0b01#2 ∧ k.op ≠ 0b10#2 ∧ s.commandEffect k = s.raiseErrCmd) := by
  unfold State.commandEffect
  split_ifs with h1 h2
  · exact .inl ⟨h1, rfl⟩
  · cases h : s.configured with
    | false => exact .inr (.inl ⟨h2, rfl, sendEffect_unconfigured h _ _⟩)
    | true => exact .inr (.inr (.inl ⟨h2, rfl, sendEffect_configured h _ _⟩))
  · exact .inr (.inr (.inr ⟨h1, h2, rfl⟩))

/-- An edge does not depend on the host's list but through the inputs. -/
theorem edge_with_host (s : State) (p : Ports) (l : List HostLine) :
    State.edge { s with host := l } p = { s.edge p with host := l } := by
  obtain ⟨⟨buf, configured, phase, seg, cnt, tx, errState, errCmd⟩, cfg, host, line, returned⟩ := s
  simp only [State.edge]
  split_ifs
  · rfl
  · cases phase with
    | idle =>
      simp only [State.commandEffect, State.sendEffect]
      split_ifs <;> rfl
    | tx => simp only [State.sequencerEdge, State.sequence]; split_ifs <;> rfl
  · cases phase with
    | idle => rfl
    | tx => simp only [State.sequencerEdge, State.sequence]; split_ifs <;> rfl

/-! ### The block's own runs (R33, R180) -/

@[simp] theorem blockRun_nil (c : Config) (b : Block) : blockRun c [] b = b := rfl

@[simp] theorem blockRun_cons (c : Config) (p : Ports) (ins : List Ports) (b : Block) :
    blockRun c (p :: ins) b = blockRun c ins (blockStep c p b) := rfl

/-! ### Runs -/

theorem runFor_zero (s : State) : runFor 0 s = .next s := rfl

theorem runFor_succ (n : Nat) (s : State) : runFor (n + 1) s = runFor n ((s.edge s.ports).hostFrom s) := by
  rw [runFor, step_eq]

/-- A run of `n + k` edges is a run of `n` and then of `k`. -/
theorem runFor_add (n k : Nat) {s t : State} (h : runFor n s = .next t) : runFor (n + k) s = runFor k t := by
  induction n generalizing s with
  | zero => rw [runFor_zero] at h; cases h; rw [Nat.zero_add]
  | succ n ih =>
    rw [runFor_succ] at h
    rw [Nat.add_right_comm, runFor_succ]
    exact ih h

/-! ### Edges without reset (R111) -/

theorem noResetFor_zero (s : State) : s.NoResetFor 0 := trivial

theorem noResetFor_succ {n : Nat} {s : State} :
    s.NoResetFor (n + 1) ↔ s.ports.rst = false ∧ ((s.edge s.ports).hostFrom s).NoResetFor n := by
  simp [State.NoResetFor, step_eq]

/-- A line still to be carried out is one of the host's. -/
theorem mem_of_mem_pendingLines {x : HostLine} {l : List HostLine} (h : x ∈ pendingLines l) : x ∈ l := by
  induction l using pendingLines.induct with
  | case1 l ih =>
    rw [pendingLines] at h
    exact List.mem_cons_of_mem _ (ih h)
  | case2 l hl =>
    rw [pendingLines] at h
    · exact h
    · exact hl

/-- What the host has left after an edge is one of its lines, or an `IDLE` line with its edges counted down (R78). -/
theorem mem_hostAfter {s : State} {after : Phase} {x : HostLine} (h : x ∈ hostAfter s after) :
    x ∈ s.host ∨ ∃ n, x = .idle n := by
  have stays : ∀ {l : List HostLine}, pendingLines s.host = l → x ∈ l → x ∈ s.host := fun e hx =>
    mem_of_mem_pendingLines (e ▸ hx)
  unfold hostAfter at h
  split at h <;> rename_i e
  case h_1 => simp at h
  case h_7 =>
    rcases List.mem_cons.1 h with hx | hx
    · exact .inr ⟨_, hx⟩
    · exact .inl (stays e (List.mem_cons_of_mem _ hx))
  all_goals
    first
    | exact .inl (stays e (List.mem_cons_of_mem _ h))
    | (split at h; exacts [.inl (stays e (List.mem_cons_of_mem _ h)), .inl (stays e h)])

/-- With no resetting line the port carries no reset, now and after every edge. -/
theorem noReset_ports {s : State} (h : s.NoReset) : s.ports.rst = false := by
  unfold State.ports
  split
  · rfl
  · rename_i l r e
    exact h l (mem_of_mem_pendingLines (by rw [e]; exact List.mem_cons_self))

theorem noReset_hostFrom {s t : State} (h : s.NoReset) : (t.hostFrom s).NoReset := by
  intro x hx
  rcases mem_hostAfter hx with hx | ⟨n, rfl⟩
  · exact h x hx
  · rfl

theorem noResetFor_of_noReset {s : State} (h : s.NoReset) (n : Nat) : s.NoResetFor n := by
  induction n generalizing s with
  | zero => exact noResetFor_zero s
  | succ n ih => exact noResetFor_succ.2 ⟨noReset_ports h, ih (noReset_hostFrom h)⟩

/-! ### The end of a run (R183) -/

theorem runToEnd_zero (s : State) : runToEnd 0 s = none := rfl

/-- A run ends after its next edge, or goes on from there. -/
theorem runToEnd_succ (n : Nat) (s : State) :
    runToEnd (n + 1) s =
      if ((s.edge s.ports).hostFrom s).programDone = true then some ((s.edge s.ports).hostFrom s)
      else runToEnd n ((s.edge s.ports).hostFrom s) := by
  rw [runToEnd, step_eq]

/-! ### Faulted runs (R205) -/

theorem errorRises_iff (s t : State) :
    errorRises s t = true ↔ (s.errState = false ∧ t.errState = true) ∨ (s.errCmd = false ∧ t.errCmd = true) := by
  simp [errorRises]

theorem errorRisesIn_zero (s : State) : errorRisesIn 0 s = false := rfl

/-- A flag rises at the next edge, or at one after it. -/
theorem errorRisesIn_succ (n : Nat) (s : State) :
    errorRisesIn (n + 1) s =
      (errorRises s ((s.edge s.ports).hostFrom s) || errorRisesIn n ((s.edge s.ports).hostFrom s)) := by
  rw [errorRisesIn, step_eq]

end Sys2Proof.Machine
end

