-- ==== Sys2Proof/Tests/Slice0.lean ====
section
/-! SUPPORT. The model's own tests: decoding of words written out from R76, the well-formedness checks, single steps against the
vectors of spec/95_test_vectors.md (each test names its vector), and for every statement with hypotheses a state that meets them. -/

namespace Sys2Proof.Tests

open Sys2Proof.Machine

/-! ### Helpers -/

/-- The spec's parameters with `T_HALF_CYCLES` = 2, as in V-F5. -/
def twoCycles : Config := { Config.spec with tHalf := 2 }

/-- The state after reset, with two cycles a half-bit. -/
def fresh : State := { State.reset with cfg := twoCycles }

/-- The state after V-K1. -/
def ready : State := { fresh with buf := [(0, 0x62#8), (1, 0x80#8), (2, 0x12#8)], configured := true }

/-- The golden message, V-F1. -/
def golden : Memory :=
  [(0, 0x62#8), (1, 0x80#8), (2, 0x12#8), (3, 0xE0#8), (4, 0x03#8), (5, 0x40#8), (6, 0x4C#8), (7, 0xAA#8), (8, 0x0A#8),
   (11, 0x40#8), (12, 0x05#8)]

/-- A frame of the golden message in progress. -/
def sending (seg : BitVec 8) (cnt : Nat) : State :=
  { fresh with buf := golden, configured := true, phase := .tx, seg := seg, cnt := cnt, tx := level golden seg.toNat
               line := [⟨level golden seg.toNat, cnt + 1⟩] }

/-- What is read off the next state, none where there is no next state. -/
def after {α : Type} (o : Host.Outcome State Fault Refusal) (f : State → α) : Option α :=
  match o with
  | .next t => some (f t)
  | .fault _ => none
  | .refused _ => none

/-- The bytes from an address on, as the debug port would show them. -/
def bytes (lo n : Nat) (s : State) : List Byte := (List.range n).map fun i => s.buf.read (lo + i)

/-- The levels of the record, oldest first. -/
def levels (s : State) : List Bit := s.line.reverse.map Segment.level

/-- The columns of V-F5. -/
def columns (s : State) : Phase × Nat × Nat × Bit × BitVec 4 := (s.phase, s.seg.toNat, s.cnt, s.tx, s.status)

/-! ### Decoding: words written bit by bit from R76 -/

/-- acc (32 bits), rt (32 bits), id = 0x12, op = 01: `SETUP 0x12` (V-K1). -/
theorem test_decode_setup :
    decodeWord Config.spec (((0#32 ++ 0#32) ++ (0b00010010#8 ++ 0b01#2) : BitVec 74)).toNat = .ok (.setup 0x12#8) := by rfl

/-- acc = 50000, rt = 1000, id = 0, op = 10: `SEND 1000, 50000` (V-K5). -/
theorem test_decode_send :
    decodeWord Config.spec
      (((0b00000000000000001100001101010000#32 ++ 0b00000000000000000000001111101000#32) ++
        (0b00000000#8 ++ 0b10#2) : BitVec 74)).toNat = .ok (.send 1000 50000) := by rfl

/-- An ignored field is dropped (R72): op = 11 with every other bit 1, op = 00 with id = 0xFF. -/
theorem test_decode_reserved :
    decodeWord Config.spec (2 ^ 74 - 1) = .ok .rsvd3 ∧ decodeWord Config.spec 0b1111111100 = .ok .rsvd0 := ⟨rfl, rfl⟩

/-- R76 in bytes, lowest bits first (log 14): `SETUP 0xFF` is 0x3FD (V-K6), in ten bytes. -/
theorem test_decode_bytes :
    decode Config.spec [0xFD#8, 0x03#8, 0#8, 0#8, 0#8, 0#8, 0#8, 0#8, 0#8, 0#8] = .ok (.setup 0xFF#8) := by rfl

theorem test_decode_refuses_by_name :
    decode Config.spec [0x49#8] = .error .wrongLength ∧ decodeWord Config.spec (2 ^ 74) = .error .bitsAboveWord ∧
    decode Config.spec [0#8, 0#8, 0#8, 0#8, 0#8, 0#8, 0#8, 0#8, 0#8, 0x04#8] = .error .bitsAboveWord := ⟨rfl, rfl, rfl⟩

/-- The command words of V-K2 and program P2, written by the encoder. -/
theorem test_encode_send :
    encodeWord Config.spec (.send 1 1) = some 0x40000000402 ∧
    encodeWord Config.spec (.send 65535 10000000) = some 0x002625A000003FFFC02 := by decide

/-- The internal operations have no word (opcode table). -/
theorem test_encode_internal_none :
    encode Config.spec .sendZero = none ∧ encode Config.spec (.sendOregon 13) = none ∧
    encode Config.spec .sequencerStep = none ∧ encode Config.spec (.setConsumption 1 1) = none ∧
    encode Config.spec (.sum 11) = none := by decide

/-- The table's numbering of the bits is the word's. -/
theorem test_decodeTableWord :
    decodeTableWord 74 0x49 = some (.setup 0x12#8) ∧ decodeTableWord 74 2 = some (.send 0 0) ∧
    decodeTableWord 74 3 = some .rsvd3 ∧ decodeTableWord 0 0 = none := ⟨rfl, rfl, rfl, rfl⟩

/-! ### Well-formedness: an ill-formed term for each check -/

theorem test_wellFormed_refuses_readings :
    ¬WellFormed Config.spec (.send (2 ^ 32) 0) ∧ ¬WellFormed Config.spec (.send 0 (2 ^ 32)) ∧
    ¬WellFormed Config.spec (.setConsumption (2 ^ 32) 0) ∧ ¬WellFormed Config.spec (.setConsumption 0 (2 ^ 32)) ∧
    ¬WellFormed Config.spec (.scaledRealtime (2 ^ 32)) ∧ ¬WellFormed Config.spec (.scaledAccumulated (2 ^ 32)) := by
  decide

theorem test_wellFormed_refuses_sizes :
    ¬WellFormed Config.spec (.sendData 12) ∧ ¬WellFormed Config.spec (.sendOregon 14) ∧
    ¬WellFormed Config.spec (.sum 14) := by decide

theorem test_wellFormed_allows :
    WellFormed Config.spec (.send (2 ^ 32 - 1) (2 ^ 32 - 1)) ∧ WellFormed Config.spec (.sendOregon 13) ∧
    WellFormed Config.spec (.sum 13) ∧ WellFormed Config.spec (.setup 0xFF#8) := by decide

/-! ### Host commands -/

/-- V-K1. -/
theorem test_setup_from_reset :
    after (exec (.setup 0x12#8) fresh) (bytes 0 13) = some [0x62#8, 0x80#8, 0x12#8, 0, 0, 0, 0, 0, 0, 0, 0, 0, 0] ∧
    after (exec (.setup 0x12#8) fresh) columns = some (.idle, 0, 0, false, 0b0010#4) := by decide

/-- V-C4: a SETUP leaves the checksum of the frame before. -/
theorem test_setup_leaves_stale_checksum :
    after (exec (.setup 0x56#8) { ready with buf := [(0, 0x62#8), (1, 0x80#8), (2, 0x34#8), (11, 0x50#8), (12, 0x01#8)] })
      (bytes 0 13) = some [0x62#8, 0x80#8, 0x56#8, 0, 0, 0, 0, 0, 0, 0, 0, 0x50#8, 0x01#8] := by decide

/-- V-K5, V-F1. -/
theorem test_send_golden :
    after (exec (.send 1000 50000) ready) (·.buf) = some golden ∧
    after (exec (.send 1000 50000) ready) columns = some (.tx, 0, 0, true, 0b0011#4) := by decide

/-- V-K2. -/
theorem test_send_unconfigured :
    after (exec (.send 1 1) fresh) (·.buf) = some [] ∧
    after (exec (.send 1 1) fresh) columns = some (.idle, 0, 0, false, 0b0100#4) := by decide

/-- V-K4. -/
theorem test_rsvd0 : after (exec .rsvd0 fresh) columns = some (.idle, 0, 0, false, 0b1000#4) := by decide

/-- V-K3, and R173 whatever `CONFIGURED` is. -/
theorem test_rsvd3 :
    after (exec .rsvd3 fresh) (·.status) = some 0b1000#4 ∧ after (exec .rsvd3 ready) (·.status) = some 0b1010#4 := by
  decide

/-- V-K9: a command in `PHASE` = `TX` is not accepted; the sequencer steps. -/
theorem test_command_waits :
    after (exec (.setup 0x34#8) (sending 0#8 0)) (·.buf) = some golden ∧
    after (exec (.setup 0x34#8) (sending 0#8 0)) columns = some (.tx, 0, 1, true, 0b0011#4) := by decide

/-! ### The line encoder -/

/-- V-F2. -/
theorem test_sendZero : after (exec .sendZero fresh) levels = some [false, true] := by decide

/-- V-F2. -/
theorem test_sendOne : after (exec .sendOne fresh) (·.line) = some [⟨false, 2⟩, ⟨true, 2⟩] := by decide

/-- V-F2. -/
theorem test_sendBit :
    after (exec (.sendBit false) fresh) levels = some [false, true] ∧
    after (exec (.sendBit true) fresh) levels = some [true, false] := by decide

/-- V-F2. -/
theorem test_sendPreamble :
    after (exec .sendPreamble fresh) levels = some ((List.replicate 10 [true, false]).flatten) := by decide

/-- V-F2. -/
theorem test_sendPostamble :
    after (exec .sendPostamble fresh) levels = some [false, true, false, true, false, true, false, true] := by decide

/-- V-F2, byte 0x62: `LH HL LH LH LH HL HL LH`. -/
theorem test_sendData_byte :
    after (exec (.sendData 1) ready) levels =
      some [false, true, true, false, false, true, false, true, false, true, true, false, true, false, false, true] := by
  decide

/-- W1: a payload byte 0b10110000 goes out as 0,0,0,0,1,1,0,1. -/
theorem test_dataBits_lowest_first :
    dataBits [(0, 0b10110000#8)] 1 = [false, false, false, false, true, true, false, true] := by decide

/-- V-F1: a golden frame has 236 segments, and its levels 0 to 27. -/
theorem test_sendOregon_golden :
    after (exec (.sendOregon 13) { fresh with buf := golden }) (fun t => (t.line.length, (levels t).take 28)) =
      some (236, (List.replicate 10 [true, false]).flatten ++ [false, true, true, false, false, true, false, true]) := by
  decide +kernel

/-- V-F5, edges 4 and 5. -/
theorem test_sequencerStep_in_segment :
    after (exec .sequencerStep (sending 0#8 0)) columns = some (.tx, 0, 1, true, 0b0011#4) ∧
    after (exec .sequencerStep (sending 0#8 1)) columns = some (.tx, 1, 0, false, 0b0011#4) := by decide

/-- V-F5, edges 473 and 475. -/
theorem test_sequencerStep_at_end :
    after (exec .sequencerStep (sending 234#8 1)) columns = some (.tx, 235, 0, true, 0b0011#4) ∧
    after (exec .sequencerStep (sending 235#8 1)) columns = some (.idle, 0, 0, false, 0b0010#4) := by decide

/-- V-F1, V-F3: the level changes of the golden frame. -/
theorem test_frameEdges_golden : frameEdges golden = 200 := by decide +kernel

/-- V-F3: the level changes of the frame of id 0, rt 0, acc 0. -/
theorem test_frameEdges_zero :
    frameEdges [(0, 0x62#8), (1, 0x80#8), (11, 0xE0#8)] = 228 := by decide +kernel

/-! ### The message packer -/

/-- W2. -/
theorem test_setType : after (exec .setType fresh) (bytes 0 3) = some [0x62#8, 0x80#8, 0x00#8] := by decide

/-- V-P1; the value 0x00 too. -/
theorem test_setId :
    after (exec (.setId 0xFF#8) fresh) (bytes 0 4) = some [0, 0, 0xFF#8, 0] ∧
    after (exec (.setId 0x00#8) ready) (bytes 0 4) = some [0x62#8, 0x80#8, 0, 0] := by decide

/-- V-P7, V-P8. -/
theorem test_setConsumption :
    after (exec (.setConsumption 500 1000) ready) (bytes 3 8) =
      some [0xF0#8, 0x01#8, 0x20#8, 0x9B#8, 0x36#8, 0x00#8, 0x00#8, 0x00#8] ∧
    after (exec (.setConsumption 65535 10000000) ready) (bytes 3 8) =
      some [0x70#8, 0xFE#8, 0x00#8, 0x92#8, 0x0B#8, 0x55#8, 0x08#8, 0x00#8] := by decide

/-- V-P9: an accumulated value beyond 2^44 with a 37-bit port. -/
theorem test_setConsumption_wide :
    after (exec (.setConsumption 0 78653823310) { ready with cfg := { twoCycles with wAcc := 37 } }) (bytes 3 8) =
      some [0x00#8, 0x00#8, 0x60#8, 0x02#8, 0x00#8, 0x00#8, 0x00#8, 0x00#8] := by decide

/-- V-P2. -/
theorem test_scaledRealtime :
    after (exec (.scaledRealtime 7999) fresh) (·.returned) = some (some 496) ∧
    after (exec (.scaledRealtime (2 ^ 32 - 1)) fresh) (·.returned) = some (some 266824843) := by decide

/-- V-P3. -/
theorem test_scaledAccumulated :
    after (exec (.scaledAccumulated 5) fresh) (·.returned) = some (some 1118) ∧
    after (exec (.scaledAccumulated (2 ^ 32 - 1)) fresh) (·.returned) = some (some 960638155003) := by decide

/-! ### The checksum generator -/

/-- V-C1. -/
theorem test_sum :
    after (exec (.sum 11) (sending 0#8 0)) (·.returned) = some (some 84) ∧
    after (exec (.sum 0) fresh) (·.returned) = some (some (-2)) := by decide

/-- V-C2: the sums 84 and 199. -/
theorem test_calculateAndSetChecksum :
    after (exec .calculateAndSetChecksum { ready with buf := golden.erase 11 }) (bytes 11 2) = some [0x40#8, 0x05#8] ∧
    after (exec (.send (2 ^ 32 - 1) (2 ^ 32 - 1)) { ready with buf := writeId 0xFF#8 ready.buf }) (bytes 11 2) =
      some [0x70#8, 0x0C#8] := by decide

/-- V-C3: the function alone, on sums the block never computes too. -/
theorem test_checksumBytes :
    checksumBytes 256 = [(11, 0x01#8), (12, 0x00#8)] ∧ checksumBytes 269 = [(11, 0xD1#8), (12, 0x00#8)] ∧
    checksumBytes 328 = [(11, 0x81#8), (12, 0x04#8)] ∧ checksumBytes (-2) = [(11, 0xEF#8), (12, 0x0F#8)] := by decide

/-! ### Steps, outputs and the host -/

/-- V-K10: reset has priority over a command on the port, also during a frame. -/
theorem test_step_reset :
    after (step { sending 100#8 1 with host := [.ports { Ports.present ⟨0b01#2, 0x12#8, 0, 0⟩ with rst := true }] }) State.abs =
      some State.reset.abs ∧
    after (step { sending 100#8 1 with host := [.reset] }) columns = some (.idle, 0, 0, false, 0b0000#4) := by decide

/-- R180, the block's own step on port values as arguments: V-K10, V-K2, and a SETUP that waits (V-K9). -/
theorem test_blockStep :
    blockStep twoCycles { Ports.present ⟨0b01#2, 0x12#8, 0, 0⟩ with rst := true } (sending 100#8 1).toBlock = Block.reset ∧
    blockStep twoCycles (.present ⟨0b10#2, 0#8, 1, 1⟩) Block.reset = { Block.reset with errState := true } ∧
    blockStep twoCycles (.present ⟨0b01#2, 0x34#8, 0, 0⟩) (sending 0#8 0).toBlock = (sending 0#8 1).toBlock := by decide

/-- V-F5, edges 2 to 5, as inputs of the block: SETUP, SEND, and two edges of the frame. -/
theorem test_blockRun :
    (let b := blockRun twoCycles
       [.present ⟨0b01#2, 0x12#8, 0, 0⟩, .present ⟨0b10#2, 0#8, 1000, 50000⟩, .quiet, .quiet] Block.reset
     (b.phase, b.seg, b.cnt, b.tx)) = (.tx, 1#8, 0, false) := by decide

/-- V-F5, edge 2: a `SETUP` line is accepted and leaves the list. -/
theorem test_step_setup :
    after (step { fresh with host := [.setup 0x12#8, .send 1000 50000] }) (fun t => (t.buf, t.host)) =
      some ([(0, 0x62#8), (1, 0x80#8), (2, 0x12#8)], [.send 1000 50000]) := by decide

/-- R78: during a frame a `SEND` line stays on the port and `WAITIDLE` waits. -/
theorem test_step_lines_wait :
    after (step { sending 0#8 0 with host := [.send 0 0] }) (·.host) = some [.send 0 0] ∧
    after (step { sending 0#8 0 with host := [.waitIdle] }) (·.host) = some [.waitIdle] ∧
    after (step { sending 235#8 1 with host := [.waitIdle] }) (·.host) = some [] := by decide

/-- R78: `IDLE 2` takes two edges and `IDLE 0` none. -/
theorem test_step_idle_lines :
    after (step { fresh with host := [.idle 2] }) (·.host) = some [.idle 1] ∧
    after (step { fresh with host := [.idle 0, .rsvd 0b11#2] }) (·.errCmd) = some true := by decide

/-- A word put on the port runs at the next edge (log 15). -/
theorem test_step_withFetchWord :
    after (step (State.reset.withFetchWord 74 0x49)) (·.buf) = some [(0, 0x62#8), (1, 0x80#8), (2, 0x12#8)] ∧
    after (step (State.reset.withFetchWord 74 3)) (·.errCmd) = some true := by decide

/-- R52, at the ends of its two ranges; also the witness for OutputsInEveryCycle. -/
theorem test_dbgData :
    (sending 0#8 0).dbgData 0#4 = 0x62#8 ∧ (sending 0#8 0).dbgData 12#4 = 0x05#8 ∧
    (sending 0#8 0).dbgData 13#4 = 0x00#8 ∧ (sending 0#8 0).dbgData 15#4 = 0x00#8 := by decide

/-- R26: nine bits at 488 cycles, one bit at one cycle. -/
theorem test_cntWidth :
    Config.spec.cntWidth = 9 ∧ twoCycles.cntWidth = 1 ∧ ({ twoCycles with tHalf := 1 } : Config).cntWidth = 1 := by decide

/-- R8: how the constants hang together. -/
theorem test_constants :
    nPre + nData + nPost = nBits ∧ 2 * nBits = nSeg ∧ 2 * halfUs = bitUs ∧ 8 * bufLen = nData ∧ nBits * bitUs = 115168 := by
  decide

/-- The lines of program P1, from the entry points of R78, and their command words. -/
theorem test_program_lines :
    constructLines 0x12#8 ++ sendLines 1000 50000 = [.reset, .setup 0x12#8, .send 1000 50000, .waitIdle] ∧
    (constructLines 0x12#8 ++ sendLines 1000 50000).map (HostLine.word Config.spec) =
      [none, some 0x49, some 0x000030D4000000FA002, none] := by decide

/-! ### Witnesses: for each statement with hypotheses, a state and operands that meet them all -/

theorem test_witness_DecodeOfEncodeIsTheCommand :
    WellFormed Config.spec (.send (2 ^ 32 - 1) (2 ^ 32 - 1)) ∧
    encode Config.spec (.send (2 ^ 32 - 1) (2 ^ 32 - 1)) =
      some [0x02#8, 0xFC#8, 0xFF#8, 0xFF#8, 0xFF#8, 0xFF#8, 0xFF#8, 0xFF#8, 0xFF#8, 0x03#8] := by decide

theorem test_witness_EveryCommandWordDecodes : 2 ^ 74 - 1 < 2 ^ Config.spec.cwBits ∧ 2 ^ Config.spec.cwBits ≤ 2 ^ 74 := by
  decide

/-- V-K8, a SEND whose `CMD_ID` differs, and no command at all with every other input different. -/
theorem test_witness_IgnoredFieldsHaveNoEffect :
    (let p := Ports.present ⟨0b01#2, 0x12#8, 5, 7⟩
     let q := Ports.present ⟨0b01#2, 0x12#8, 0, 0⟩
     p ≠ q ∧ p.rst = q.rst ∧ p.cmdValid = q.cmdValid ∧ fresh.toBlock.accepts p = true ∧ p.cmdOp = q.cmdOp ∧
     (p.cmdOp = 0b01#2 → p.cmdId = q.cmdId) ∧ (p.cmdOp = 0b10#2 → p.cmdRt = q.cmdRt ∧ p.cmdAcc = q.cmdAcc)) ∧
    (let p := Ports.present ⟨0b10#2, 0x12#8, 5, 7⟩
     let q := { Ports.present ⟨0b10#2, 0x34#8, 5, 7⟩ with dbgAddr := 15#4 }
     p ≠ q ∧ p.rst = q.rst ∧ p.cmdValid = q.cmdValid ∧ fresh.toBlock.accepts p = true ∧ p.cmdOp = q.cmdOp ∧
     (p.cmdOp = 0b01#2 → p.cmdId = q.cmdId) ∧ (p.cmdOp = 0b10#2 → p.cmdRt = q.cmdRt ∧ p.cmdAcc = q.cmdAcc)) ∧
    (let p : Ports := .quiet
     let q : Ports := { rst := false, cmdValid := false, cmdOp := 1#2, cmdId := 9#8, cmdRt := 9, cmdAcc := 9, dbgAddr := 9#4 }
     p ≠ q ∧ p.rst = q.rst ∧ p.cmdValid = q.cmdValid ∧ fresh.toBlock.accepts p = false) := by decide

/-- For SetupConfiguresIdentity, SetupReplacesEarlierSetup and SetupIsSetTypeThenSetId. -/
theorem test_witness_SetupConfiguresIdentity : ready.phase = .idle ∧ ready.buf.wf = true := by decide

/-- For SendPacksChecksumsAndStartsFrame, SendIsPackThenChecksum, SetConsumptionPacksBothReadings and ScalingsAreExactFloors:
the largest readings. -/
theorem test_witness_SendPacksChecksumsAndStartsFrame :
    ready.phase = .idle ∧ ready.configured = true ∧ 2 ^ 32 - 1 < 2 ^ ready.cfg.wRt ∧ 2 ^ 32 - 1 < 2 ^ ready.cfg.wAcc := by
  decide

theorem test_witness_SendBeforeSetupRaisesErrState :
    fresh.phase = .idle ∧ fresh.configured = false ∧ 2 ^ 32 - 1 < 2 ^ fresh.cfg.wRt ∧ 2 ^ 32 - 1 < 2 ^ fresh.cfg.wAcc := by
  decide

/-- In the Configured state and out of it. -/
theorem test_witness_ReservedCommandsRaiseErrCmd :
    fresh.phase = .idle ∧ fresh.configured = false ∧ ready.phase = .idle ∧ ready.configured = true := by decide

/-- The frame's last edge and an earlier one. -/
theorem test_witness_CommandsWaitWhileSending :
    (sending 235#8 1).phase = .tx ∧ commandOf (.send 0 0) ≠ none ∧ WellFormed (sending 235#8 1).cfg (.send 0 0) ∧
    pendingLines [.idle 0, .setup 0x34#8] = [.setup 0x34#8] ∧ (HostLine.setup 0x34#8).command ≠ none := by decide

theorem test_witness_TooWideReadingsAreRefused : 2 ^ fresh.cfg.wRt ≤ 2 ^ 32 ∧ 2 ^ fresh.cfg.wAcc ≤ 2 ^ 32 := by decide

/-- The first and the last bit of the largest payload; for SendOregonIsPreambleDataPostamble too. -/
theorem test_witness_SendDataSendsBytesLowestBitFirst : 13 ≤ 13 ∧ 0 < 13 ∧ 12 < 13 ∧ 0 < 8 ∧ 7 < 8 := by decide

theorem test_witness_BytesBeyondTheBufferFault : 13 < 14 := by decide

/-- One state for each of the three branches. -/
theorem test_witness_SequencerStepBranches :
    (sending 0#8 0).phase = .tx ∧ (sending 0#8 0).cnt < (sending 0#8 0).cfg.tHalf - 1 ∧
    (sending 234#8 1).phase = .tx ∧ ¬(sending 234#8 1).cnt < (sending 234#8 1).cfg.tHalf - 1 ∧
    (sending 234#8 1).seg.toNat < 235 ∧ (sending 235#8 1).phase = .tx ∧
    ¬(sending 235#8 1).cnt < (sending 235#8 1).cfg.tHalf - 1 ∧ ¬(sending 235#8 1).seg.toNat < 235 := by decide

theorem test_witness_IdleEdgeChangesNothing :
    ready.phase = .idle ∧ ready.ports.rst = false ∧ ready.ports.cmdValid = false := by decide

/-- The ends of the three parts of a frame meet: bits 9 and 10 are segments 18 to 21, bits 113 and 114 segments 226 to 229. -/
theorem test_witness_SegmentLevelsOfAFrame :
    level golden 18 = true ∧ level golden 19 = false ∧ level golden 20 = false ∧ level golden 21 = true ∧
    level golden (20 + 16 * 12 + 2 * 7) = false ∧ level golden 227 = true ∧ level golden 228 = false ∧
    level golden 235 = true := by decide +kernel

/-- The first and the last frame bit of each field of the golden message, from V-F1's bit string. -/
theorem test_witness_FieldsInFrameOrder :
    [34, 37, 38, 53, 54, 97, 98, 101, 102, 105, 106, 109, 110, 113].map (frameBit (messageOf 1000 50000 ready.buf)) =
      [false, false, false, false, false, false, false,
       false, false, false, true, false, false, false] := by decide +kernel

/-- A SEND that completes, which is none of the three instructions left out. -/
theorem test_witness_OnlySetupWritesTheIdentityBytes :
    ∃ t, exec (.send 0 0) ready = .next t ∧ Instr.send 0 0 ≠ .setType ∧ (∀ id, Instr.send 0 0 ≠ .setId id) ∧
      ∀ id, Instr.send 0 0 ≠ .setup id := ⟨_, rfl, nofun, nofun, nofun⟩

/-- The smallest and the largest count. -/
theorem test_witness_SumAddsNibblesLessTwo : 0 ≤ 13 ∧ 13 ≤ 13 := by decide

/-- For SumRangeInsideTheBlock and SumBelow256AtDefaultWidths. -/
theorem test_witness_SumRangeInsideTheBlock :
    ready.buf.read 0 = 0x62#8 ∧ ready.buf.read 1 = 0x80#8 ∧ 2 ^ 32 - 1 < 2 ^ 32 := by decide

/-- For ConfiguredAfterAnEdge: an accepted SETUP, and a reset with the flag set. -/
theorem test_witness_ConfiguredAfterAnEdge :
    (∃ t, step { fresh with host := [.setup 1#8] } = .next t ∧ t.configured = true) ∧
    ∃ t, step { ready with host := [.reset] } = .next t ∧ t.configured = false := ⟨⟨_, rfl, rfl⟩, ⟨_, rfl, rfl⟩⟩

/-- An accepted SEND before configuration, and one after. -/
theorem test_witness_ErrStateAfterAnEdge :
    (∃ t, step { fresh with host := [.send 1 1] } = .next t ∧ t.errState = true) ∧
    ∃ t, step { ready with host := [.send 1 1] } = .next t ∧ t.errState = false := ⟨⟨_, rfl, rfl⟩, ⟨_, rfl, rfl⟩⟩

/-- An accepted reserved code, and one that waits. -/
theorem test_witness_ErrCmdAfterAnEdge :
    (∃ t, step { fresh with host := [.rsvd 0b00#2] } = .next t ∧ t.errCmd = true) ∧
    ∃ t, step { sending 0#8 0 with host := [.rsvd 0b11#2] } = .next t ∧ t.errCmd = false := ⟨⟨_, rfl, rfl⟩, ⟨_, rfl, rfl⟩⟩

/-- An edge that faults the run, one that leaves it faulted, and a reset that ends it. -/
theorem test_witness_FaultedAfterAnEdge :
    (∃ t, step { ready with host := [.rsvd 0b11#2] } = .next t ∧ t.faulted = true) ∧
    (∃ t, step { fresh with errState := true, host := [.setup 0xFF#8] } = .next t ∧ t.faulted = true) ∧
    ∃ t, step { fresh with errState := true, host := [.reset] } = .next t ∧ t.faulted = false :=
  ⟨⟨_, rfl, rfl⟩, ⟨_, rfl, rfl⟩, ⟨_, rfl, rfl⟩⟩

/-- A run is faulted though a reset follows (R205); the same lines without the reserved code are no faulted run. -/
theorem test_witness_FaultedRun :
    (observeRun 2 [.rsvd 0b11#2, .reset] fresh).map (fun o => (o.faulted, o.status)) = some (true, 0b0000#4) ∧
    (observeRun 2 [.setup 1#8, .reset] fresh).map (fun o => (o.faulted, o.status)) = some (false, 0b0000#4) := by decide

/-- The start of a frame, its last edge but one, its last, and a reset inside it (R222). -/
theorem test_witness_PhaseAfterAnEdge :
    (∃ t, step { ready with host := [.send 0 0] } = .next t ∧ t.phase = .tx) ∧
    (∃ t, step (sending 235#8 0) = .next t ∧ t.phase = .tx) ∧
    (∃ t, step (sending 235#8 1) = .next t ∧ t.phase = .idle) ∧
    ∃ t, step { sending 0#8 0 with host := [.reset] } = .next t ∧ t.phase = .idle :=
  ⟨⟨_, rfl, rfl⟩, ⟨_, rfl, rfl⟩, ⟨_, rfl, rfl⟩, ⟨_, rfl, rfl⟩⟩

theorem test_witness_ResetEdgeClearsEverything : State.ports { sending 100#8 1 with host := [.reset] } =
    { Ports.quiet with rst := true } ∧ State.ports { sending 100#8 1 with host := [.idle 0, .reset] } =
    { Ports.quiet with rst := true } := by decide

/-- A frame in progress, and a command on the port of a block that is ready. -/
theorem test_witness_StepRunsTheDecodedInstruction :
    (sending 0#8 0).ports.rst = false ∧ (sending 0#8 0).phase = .tx ∧
    (let s := { ready with host := [.send 1000 50000] }
     s.ports.rst = false ∧ s.phase = .idle ∧ s.ports.cmdValid = true ∧
     decodeCommand (s.ports.command s.cfg) = .send 1000 50000) := by decide

theorem test_witness_PresentedWordRunsAtTheNextEdge :
    0x49 < 2 ^ 74 ∧ decodeWord ready.cfg 0x49 = .ok (.setup 0x12#8) := ⟨by decide, rfl⟩

theorem test_witness_BufferHoldsDuringAFrame :
    ∃ t, (sending 235#8 1).phase = .tx ∧ (sending 235#8 1).ports.rst = false ∧ step (sending 235#8 1) = .next t :=
  ⟨_, rfl, rfl, rfl⟩

/-- A line that is accepted, and one that waits for the frame to end. -/
theorem test_witness_AcceptedLineLeavesThePort :
    (∃ t, pendingLines [.send 0 0, .waitIdle] = [.send 0 0, .waitIdle] ∧ (HostLine.send 0 0).command ≠ none ∧
      step { ready with host := [.send 0 0, .waitIdle] } = .next t ∧ t.host = [.waitIdle]) ∧
    ∃ t, step { sending 235#8 1 with host := [.send 0 0] } = .next t ∧ t.phase = .idle ∧ t.host = [.send 0 0] :=
  ⟨⟨_, rfl, nofun, rfl, rfl⟩, ⟨_, rfl, rfl, rfl⟩⟩

/-- A short run from a state in the middle of a frame: `RESET`, `RSVD 3` (V-K3), `IDLE 1`. It ends after its third edge, the first
after which it is done, though four are allowed; the line is low after each. -/
theorem test_witness_ObservationOfARun :
    (observeRun 4 [.reset, .rsvd 0b11#2, .idle 1] (sending 0#8 0)).map (fun o => (o.txs, o.status, o.dbg)) =
      some ([false, false, false], 0b1000#4, List.replicate 16 0x00#8) ∧
    (observeRun 2 [.reset, .rsvd 0b11#2, .idle 1] (sending 0#8 0)).isNone := by decide

/-- A run does not end before `PHASE` = `IDLE` (R183): the last two edges of a frame (V-F5, edges 474 and 475), no line left. -/
theorem test_runToEnd_waits_for_idle :
    (observeRun 3 [] (sending 235#8 0)).map Observation.txs = some [true, false] := by decide

/-- The invariants hold in a Configured idle state that is not reset's. -/
theorem test_inv_ready : ready.Inv where
  legal := by decide
  canonical := by decide
  idle := by decide
  sending := by decide
  typed := by decide
  blank := nofun
  zeroNibbles := by decide
  summed := nofun
  levelled := nofun
  recorded := nofun

/-- The invariants hold in the middle of a frame. -/
theorem test_inv_sending : (sending 100#8 1).Inv where
  legal := by decide
  canonical := by decide
  idle := nofun
  sending := by decide
  typed := by decide
  blank := nofun
  zeroNibbles := by decide
  summed := by decide
  levelled := by decide
  recorded := by decide

/-- For EveryEdgeKeepsTheInvariants and TimerFitsItsWidth. -/
theorem test_witness_EveryEdgeKeepsTheInvariants : ∃ t, (sending 100#8 1).Inv ∧ step (sending 100#8 1) = .next t :=
  ⟨_, test_inv_sending, rfl⟩

theorem test_witness_EveryInstructionKeepsTheBufferCanonical :
    ∃ t, golden.wf = true ∧ exec (.setId 0x00#8) (sending 0#8 0) = .next t ∧ t.buf.wf = true := ⟨_, rfl, rfl, rfl⟩

/-- For FrameIsCycleExact and CyclesRefineSendOregon: the start of a frame, with the host's next command waiting. -/
theorem test_witness_FrameIsCycleExact :
    (let s := { sending 0#8 0 with host := [.send 1 1, .waitIdle] }
     s.cfg.Legal ∧ s.FrameStart ∧ s.NoResetFor (236 * s.cfg.tHalf - 1) ∧ s.line = ⟨true, 1⟩ :: []) ∧
    235 < 236 ∧ 1 < twoCycles.tHalf :=
  ⟨⟨by decide, by decide, noResetFor_of_noReset (by decide) _, by decide⟩, by decide, by decide⟩

/-- Idle states of both kinds, and the largest readings. -/
theorem test_witness_CommandLevelIsExact :
    ready.cfg.Legal ∧ ready.Quiet ∧ fresh.Quiet ∧ 2 ^ 32 - 1 < 2 ^ ready.cfg.wRt ∧ 2 ^ 32 - 1 < 2 ^ ready.cfg.wAcc := by
  decide

/-- The spec's own clock, and clocks that are no whole number of hertz: one cycle and a hundred cycles a half-bit. -/
theorem test_witness_WallClockOfAFrame :
    Config.spec.RealTime ∧ Config.RealTime { Config.spec with fClkHz := 125000 / 61, tHalf := 1 } ∧
    Config.RealTime { Config.spec with fClkHz := 12500000 / 61, tHalf := 100 } := by
  refine ⟨⟨⟨488, ?_⟩, ?_⟩, ⟨⟨1, ?_⟩, ?_⟩, ⟨⟨100, ?_⟩, ?_⟩⟩ <;> norm_num [Config.halfBitCycles, Config.spec]

/-- R7: a frequency at which 488 µs is half a cycle is not legal. -/
theorem test_legalClock_refuses : ¬Config.LegalClock { Config.spec with fClkHz := 62500 / 61 } := by
  rintro ⟨n, hn, h⟩
  have : (1 : ℚ) ≤ n := by exact_mod_cast hn
  norm_num [Config.halfBitCycles] at h
  linarith

theorem test_witness_ShortestGapIsOneCycle :
    (let s := { sending 235#8 1 with host := [.send 1 1, .waitIdle] }
     s.phase = .tx ∧ s.configured = true ∧ ¬s.cnt < s.cfg.tHalf - 1 ∧ ¬s.seg.toNat < 235 ∧
     s.host = .send 1 1 :: [.waitIdle]) := by decide

/-- The ends of the three parts. -/
theorem test_witness_OperationsInProgress :
    (sending 19#8 0).activeOps = [.sendOregon 13, .sendPreamble, .sendBit true, .sendOne, .sequencerStep] ∧
    (sending 20#8 0).activeOps = [.sendOregon 13, .sendData 13, .sendBit false, .sendZero, .sequencerStep] ∧
    (sending 227#8 0).activeOps = [.sendOregon 13, .sendData 13, .sendBit false, .sendZero, .sequencerStep] ∧
    (sending 228#8 0).activeOps = [.sendOregon 13, .sendPostamble, .sendBit false, .sendZero, .sequencerStep] := by decide

end Sys2Proof.Tests
end

section
/-! PROOFS. O56: a frame run edge by edge records what sendOregon, run as one operation, records (R6, R107, R111, R112). The frame
level is said in closed form first; then where a frame stands after `n` edges, by induction on `n`. -/

namespace Sys2Proof.Machine

/-! ### The frame level: sendOregon's line (R107, R112) -/

/-- Bytes one after the other, bit 0 first, are one list of bits, eight to a byte (R105). -/
theorem dataBits_eq_map_range (m : Memory) (size : Nat) :
    dataBits m size = (List.range (8 * size)).map fun d => m.bit (d / 8) (d % 8) := by
  induction size with
  | zero => rfl
  | succ n ih =>
    have lastByte : ((List.range 8).map (8 * n + ·)).map (fun d => m.bit (d / 8) (d % 8)) = (List.range 8).map (m.bit n) := by
      rw [List.map_map]
      refine List.map_congr_left fun j hj => ?_
      have : (8 * n + j) / 8 = n ∧ (8 * n + j) % 8 = j := by
        have := List.mem_range.1 hj
        omega
      simp [this]
    rw [Nat.mul_succ, List.range_add, List.map_append, lastByte, ← ih]
    simp [dataBits, List.range_succ]

/-- Preamble, data and postamble are the 118 frame bits in order (R79, R107). -/
theorem frameBits_eq_parts (m : Memory) :
    (List.range nBits).map (frameBit m) = preambleBits ++ dataBits m bufLen ++ postambleBits := by
  have preamble : (List.range 10).map (frameBit m) = preambleBits :=
    List.eq_replicate_iff.2 ⟨by simp [nPre], by simpa using fun n hn => frameBit_preamble m hn⟩
  have data : (List.range 104).map (fun d => frameBit m (10 + d)) = dataBits m bufLen := by
    rw [dataBits_eq_map_range]
    exact List.map_congr_left fun d hd => frameBit_data m (List.mem_range.1 hd)
  have postamble : (List.range 4).map (fun n => frameBit m (114 + n)) = postambleBits :=
    List.eq_replicate_iff.2 ⟨by simp [nPost], by simpa using fun n _ => frameBit_postamble m (Nat.le_add_right 114 n)⟩
  rw [show nBits = 10 + 104 + 4 from rfl, List.range_add, List.range_add, ← preamble, ← data, ← postamble]
  simp [Function.comp_def]

/-- The first `k` segments of a frame, each a half-bit of `t` cycles (R108). -/
def firstSegments (t : Nat) (m : Memory) (k : Nat) : List Segment := (List.range k).map fun i => ⟨level m i, t⟩

theorem firstSegments_succ (t : Nat) (m : Memory) (k : Nat) :
    firstSegments t m (k + 1) = firstSegments t m k ++ [⟨level m k, t⟩] := by
  simp [firstSegments, List.range_succ]

theorem waveform_eq_firstSegments (t : Nat) (m : Memory) : waveform t m = firstSegments t m 236 := rfl

/-- Frame bit `n` is segments `2n` and `2n + 1` (R80). -/
theorem bitSegments_frameBits (t : Nat) (m : Memory) (n : Nat) :
    bitSegments t ((List.range n).map (frameBit m)) = firstSegments t m (2 * n) := by
  induction n with
  | zero => rfl
  | succ n ih =>
    rw [List.range_succ, List.map_append, bitSegments_append, ih, Nat.mul_succ, firstSegments_succ, firstSegments_succ,
      level_even, level_odd]
    simp

theorem exec_sendOregon_waveform (s : State) :
    exec (.sendOregon 13) s = .next { s with tx := true, line := (waveform s.cfg.tHalf s.buf).reverse ++ s.line } := by
  have wave : bitSegments s.cfg.tHalf (preambleBits ++ dataBits s.buf 13 ++ postambleBits) = waveform s.cfg.tHalf s.buf := by
    rw [show 13 = bufLen from rfl, ← frameBits_eq_parts, bitSegments_frameBits]
    rfl
  have high : lastLevel s.tx (preambleBits ++ dataBits s.buf 13 ++ postambleBits) = true := by
    rw [lastLevel_append]
    rfl
  calc exec (.sendOregon 13) s
      = .next (s.bits (preambleBits ++ dataBits s.buf 13 ++ postambleBits)) := by
        rw [State.bits_append, State.bits_append]
        rfl
    _ = _ := by rw [State.bits_eq, wave, high]

/-! ### The cycle level: where a frame stands (R109, R111) -/

/-- A block of a frame in segment `k`, `j` cycles after its first. -/
def Block.atSegment (b : Block) (k j : Nat) : Block :=
  { b with seg := BitVec.ofNat 8 k, cnt := j, tx := level b.buf k }

/-- `t` is a state of the frame that started in `s`: in segment `k`, `j` cycles after its first. The record is followed where it
began with the one high cycle of the accepting edge. -/
structure State.InFrame (s : State) (k j : Nat) (t : State) : Prop where
  /-- The block is as at the start but for `SEG`, `CNT` and `TX`. -/
  block : t.toBlock = s.toBlock.atSegment k j
  /-- The parameters are as at the start. -/
  cfg : t.cfg = s.cfg
  /-- The segments before `k` are complete, and segment `k` has been held for `j + 1` cycles. -/
  line : ∀ r, s.line = ⟨true, 1⟩ :: r →
    t.line = ⟨level s.buf k, j + 1⟩ :: ((firstSegments s.cfg.tHalf s.buf k).reverse ++ r)

namespace State.InFrame

variable {s t : State} {k j : Nat}

theorem phase_eq (h : s.InFrame k j t) : t.phase = s.phase := by rw [h.block]; rfl

theorem buf_eq (h : s.InFrame k j t) : t.buf = s.buf := by rw [h.block]; rfl

theorem seg_eq (h : s.InFrame k j t) : t.seg = BitVec.ofNat 8 k := by rw [h.block]; rfl

theorem cnt_eq (h : s.InFrame k j t) : t.cnt = j := by rw [h.block]; rfl

theorem tx_eq (h : s.InFrame k j t) : t.tx = level s.buf k := by rw [h.block]; rfl

theorem seg_toNat (h : s.InFrame k j t) (hk : k < 236) : t.seg.toNat = k := by
  rw [h.seg_eq, BitVec.toNat_ofNat]
  omega

/-- The timer has run out exactly in the last cycle of a segment. -/
theorem cnt_lt_iff (h : s.InFrame k j t) : t.cnt < t.cfg.tHalf - 1 ↔ j + 1 < s.cfg.tHalf := by
  rw [h.cnt_eq, h.cfg]
  omega

/-- The host's list is no part of where a frame stands. -/
theorem hostFrom (h : s.InFrame k j t) (u : State) : s.InFrame k j (t.hostFrom u) := ⟨h.block, h.cfg, h.line⟩

/-- A frame starts in the first cycle of segment 0 (R110). -/
theorem start (h : s.FrameStart) : s.InFrame 0 0 s := by
  obtain ⟨-, hseg, hcnt, htx⟩ := h
  refine ⟨?_, rfl, fun r hr => by simpa [firstSegments] using hr⟩
  change s.toBlock = { s.toBlock with seg := 0#8, cnt := 0, tx := true }
  rw [← hseg, ← hcnt, ← htx]

/-- Within a segment an edge adds one cycle to it (R109, first branch). -/
theorem stay (h : s.InFrame k j t) (hj : j + 1 < s.cfg.tHalf) : s.InFrame k (j + 1) t.sequencerEdge := by
  rw [sequencerEdge_stay (h.cnt_lt_iff.2 hj)]
  refine ⟨?_, h.cfg, fun r hr => ?_⟩
  · simp [h.block, Block.atSegment]
  · change holdLine t.tx 1 t.line = _
    rw [h.tx_eq, h.line r hr, holdLine_same]

/-- The last edge of a segment before 235 starts the next one (R109, second branch). -/
theorem advance (h : s.InFrame k j t) (hj : j + 1 = s.cfg.tHalf) (hk : k < 235) :
    s.InFrame (k + 1) 0 t.sequencerEdge := by
  have seg : t.seg.toNat = k := h.seg_toNat (by omega)
  rw [sequencerEdge_advance (h.cnt_lt_iff.not.2 (by omega)) (by omega), seg]
  refine ⟨?_, h.cfg, fun r hr => ?_⟩
  · simp [h.block, Block.atSegment, BitVec.ofNat_add]
  · simp [h.line r hr, h.buf_eq, hj, firstSegments_succ]

/-- The last edge of segment 235 opens the final low, whether it ends the frame or is a reset (R109, R220). -/
theorem line_after_last (h : s.InFrame 235 j t) (hj : j + 1 = s.cfg.tHalf) (hphase : s.phase = .tx)
    {r : List Segment} (hr : s.line = ⟨true, 1⟩ :: r) (p : Ports) :
    (t.edge p).line = ⟨false, 1⟩ :: ((waveform s.cfg.tHalf s.buf).reverse ++ r) := by
  have high : level s.buf 235 = true := rfl
  have wave : t.line = (waveform s.cfg.tHalf s.buf).reverse ++ r := by
    rw [h.line r hr, hj, waveform_eq_firstSegments, firstSegments_succ _ _ 235]
    simp
  rcases edge_cases t p with ⟨-, e⟩ | ⟨-, -, e⟩ | ⟨-, idle, -⟩ | ⟨-, idle, -⟩
  · rw [e, State.resetEdge_line, ← wave, h.line r hr, high]
    rfl
  · rw [e, sequencerEdge_finish (h.cnt_lt_iff.not.2 (by omega)) (by rw [h.seg_toNat] <;> omega), ← wave]
  all_goals simp [h.phase_eq, hphase] at idle

/-- From the `n`th edge of a frame to the next, with `T_HALF_CYCLES` edges to a segment (R111). -/
theorem next {n : Nat} (h : s.InFrame (n / s.cfg.tHalf) (n % s.cfg.tHalf) t) (hT : 0 < s.cfg.tHalf)
    (hn : n + 1 < 236 * s.cfg.tHalf) : s.InFrame ((n + 1) / s.cfg.tHalf) ((n + 1) % s.cfg.tHalf) t.sequencerEdge := by
  have whole := Nat.mod_add_div n s.cfg.tHalf
  have bound := Nat.mod_lt n hT
  by_cases hj : n % s.cfg.tHalf + 1 < s.cfg.tHalf
  · obtain ⟨seg, cyc⟩ : (n + 1) / s.cfg.tHalf = n / s.cfg.tHalf ∧ (n + 1) % s.cfg.tHalf = n % s.cfg.tHalf + 1 :=
      (Nat.div_mod_unique hT).2 ⟨by omega, hj⟩
    rw [seg, cyc]
    exact h.stay hj
  · obtain ⟨seg, cyc⟩ : (n + 1) / s.cfg.tHalf = n / s.cfg.tHalf + 1 ∧ (n + 1) % s.cfg.tHalf = 0 :=
      (Nat.div_mod_unique hT).2 ⟨by rw [Nat.mul_succ]; omega, hT⟩
    have notLast : (n + 1) / s.cfg.tHalf < 236 := Nat.div_lt_of_lt_mul (by rwa [Nat.mul_comm])
    rw [seg, cyc]
    exact h.advance (by omega) (by omega)

end State.InFrame

theorem edge_eq_sequencerEdge {s : State} (h : s.phase = .tx) {p : Ports} (hr : p.rst = false) :
    s.edge p = s.sequencerEdge := by
  simp [State.edge, h, hr]

/-- One more edge at the end of a run. -/
theorem runFor_add_one {n : Nat} {s t : State} (h : runFor n s = .next t) :
    runFor (n + 1) s = .next ((t.edge t.ports).hostFrom t) := by
  rw [runFor_add n 1 h, runFor_succ, runFor_zero]

theorem State.NoResetFor.mono {n k : Nat} {s : State} (h : s.NoResetFor k) (hn : n ≤ k) : s.NoResetFor n := by
  induction n generalizing s k with
  | zero => exact noResetFor_zero s
  | succ n ih =>
    obtain ⟨k, rfl⟩ := Nat.exists_eq_add_of_le' (Nat.zero_lt_of_lt hn)
    obtain ⟨now, later⟩ := noResetFor_succ.1 h
    exact noResetFor_succ.2 ⟨now, ih later (Nat.le_of_succ_le_succ hn)⟩

/-- With no reset in `n + k` edges there is none in the `k` edges after the first `n`. -/
theorem State.NoResetFor.after {n k : Nat} {s t : State} (h : s.NoResetFor (n + k)) (ht : runFor n s = .next t) :
    t.NoResetFor k := by
  induction n generalizing s with
  | zero =>
    rw [runFor_zero] at ht
    cases ht
    rwa [Nat.zero_add] at h
  | succ n ih =>
    rw [Nat.add_right_comm, noResetFor_succ] at h
    rw [runFor_succ] at ht
    exact ih h.2 ht

/-- Where a frame stands after `n` edges without reset: in segment `n / T`, `n % T` cycles after its first (R111). -/
theorem runFor_inFrame {s : State} (hT : 1 ≤ s.cfg.tHalf) (hs : s.FrameStart) {n : Nat} (hn : n < 236 * s.cfg.tHalf)
    (hr : s.NoResetFor n) : ∃ t, runFor n s = .next t ∧ s.InFrame (n / s.cfg.tHalf) (n % s.cfg.tHalf) t := by
  induction n with
  | zero => exact ⟨s, rfl, by simpa using State.InFrame.start hs⟩
  | succ n ih =>
    obtain ⟨t, run, inFrame⟩ := ih (by omega) (hr.mono n.le_succ)
    have noReset : t.ports.rst = false := (noResetFor_succ.1 (hr.after run)).1
    have inStep := inFrame.next hT hn
    rw [← edge_eq_sequencerEdge (inFrame.phase_eq.trans hs.1) noReset] at inStep
    exact ⟨_, runFor_add_one run, inStep.hostFrom t⟩

/-- Settles O56: the last edge, a reset or the end of the frame, leaves the waveform sendOregon records, and one low cycle. -/
theorem cyclesRefineSendOregon : Obligations.CyclesRefineSendOregon := by
  intro s r ⟨_, _, hT⟩ start noReset record
  obtain ⟨t, run, inFrame⟩ := runFor_inFrame hT start (by omega) noReset
  have last : (236 * s.cfg.tHalf - 1) / s.cfg.tHalf = 235 ∧ (236 * s.cfg.tHalf - 1) % s.cfg.tHalf = s.cfg.tHalf - 1 :=
    (Nat.div_mod_unique hT).2 (by omega)
  rw [last.1, last.2] at inFrame
  refine ⟨(t.edge t.ports).hostFrom t, _, ?_, exec_sendOregon_waveform _, ?_⟩
  · rw [show 236 * s.cfg.tHalf = 236 * s.cfg.tHalf - 1 + 1 by omega]
    exact runFor_add_one run
  · exact inFrame.line_after_last (by omega) start.1 record t.ports

end Sys2Proof.Machine
end

section
/-! PROOFS. The state across an edge: what an edge does to the flags and to `PHASE` (O38, O39, O40, O42), what an instruction does to
the buffer (O28, O54), and the invariants of R37 (O44, O51, O52, O53). -/

namespace Sys2Proof.Machine

/-! ### One edge, by what is accepted (R71, R180) -/

theorem eq_of_step {s t : State} (h : step s = .next t) : t = (s.edge s.ports).hostFrom s := by
  rw [step_eq] at h
  cases h
  rfl

/-- `edge_cases` in the terms of R71: the one edge that runs a command is the one that accepts it. -/
theorem edge_cases_accepts (s : State) (p : Ports) :
    (p.rst = true ∧ s.edge p = s.resetEdge) ∨
    (p.rst = false ∧ s.phase = .tx ∧ s.toBlock.accepts p = false ∧ s.edge p = s.sequencerEdge) ∨
    (p.rst = false ∧ s.phase = .idle ∧ s.toBlock.accepts p = true ∧
      s.edge p = (s.commandEffect (p.command s.cfg)).hold 1) ∨
    (p.rst = false ∧ s.phase = .idle ∧ s.toBlock.accepts p = false ∧ s.edge p = s.idleEdge) := by
  rcases edge_cases s p with h | ⟨hr, hp, e⟩ | ⟨hr, hp, hv, e⟩ | ⟨hr, hp, hv, e⟩
  · exact .inl h
  · exact .inr (.inl ⟨hr, hp, by simp [Block.accepts, Block.cmdReady, hp], e⟩)
  · exact .inr (.inr (.inl ⟨hr, hp, by simp [Block.accepts, Block.cmdReady, hr, hp, hv], e⟩))
  · exact .inr (.inr (.inr ⟨hr, hp, by simp [Block.accepts, hv], e⟩))

@[simp] theorem Ports.command_op (c : Config) (p : Ports) : (p.command c).op = p.cmdOp := rfl

/-! ### The sequencer leaves the buffer and the flags (R109) -/

@[simp] theorem Block.sequence_buf (t : Nat) (b : Block) : (b.sequence t).buf = b.buf := by
  unfold Block.sequence; split_ifs <;> rfl

@[simp] theorem Block.sequence_configured (t : Nat) (b : Block) : (b.sequence t).configured = b.configured := by
  unfold Block.sequence; split_ifs <;> rfl

@[simp] theorem Block.sequence_errState (t : Nat) (b : Block) : (b.sequence t).errState = b.errState := by
  unfold Block.sequence; split_ifs <;> rfl

@[simp] theorem Block.sequence_errCmd (t : Nat) (b : Block) : (b.sequence t).errCmd = b.errCmd := by
  unfold Block.sequence; split_ifs <;> rfl

/-- A frame goes on after an edge unless it was the last edge of segment 235 (R109). -/
theorem sequencerEdge_phase_eq_tx_iff {s : State} (h : s.phase = .tx) :
    s.sequencerEdge.phase = .tx ↔ s.cnt < s.cfg.tHalf - 1 ∨ s.seg.toNat < 235 := by
  rcases sequencerEdge_cases s with ⟨hc, e⟩ | ⟨-, hs, e⟩ | ⟨hc, hs, e⟩
  · simp [e, h, hc]
  · simp [e, h, hs]
  · simp only [e, hc, hs, or_self, iff_false]
    nofun

/-! ### The flags and `PHASE` after an accepted command (R171, R172, R173) -/

theorem commandEffect_configured (s : State) (k : Command) :
    (s.commandEffect k).configured = (s.configured || k.op == 0b01#2) := by
  rcases commandEffect_cases s k with ⟨h, e⟩ | ⟨h, -, e⟩ | ⟨h, -, e⟩ | ⟨h, -, e⟩
  · rw [e, State.setupEffect_configured]; simp [h]
  · rw [e, State.raiseErrState_configured]; simp [h]
  · rw [e, State.startFrame_configured]; simp [h]
  · rw [e, State.raiseErrCmd_configured]; simp [h]

theorem commandEffect_errState (s : State) (k : Command) :
    (s.commandEffect k).errState = (s.errState || (k.op == 0b10#2 && !s.configured)) := by
  rcases commandEffect_cases s k with ⟨h, e⟩ | ⟨h, hc, e⟩ | ⟨h, hc, e⟩ | ⟨-, h, e⟩
  · rw [e, State.setupEffect_errState]; simp [h]
  · rw [e, State.raiseErrState_errState]; simp [h, hc]
  · rw [e, State.startFrame_errState]; simp [hc]
  · rw [e, State.raiseErrCmd_errState]; simp [h]

/-- The reserved codes are the two that are neither SETUP's nor SEND's (R73). -/
theorem reserved_op (o : BitVec 2) : (o == 0b00#2 || o == 0b11#2) = (o != 0b01#2 && o != 0b10#2) := by
  revert o
  decide

theorem commandEffect_errCmd (s : State) (k : Command) :
    (s.commandEffect k).errCmd = (s.errCmd || (k.op == 0b00#2 || k.op == 0b11#2)) := by
  rw [reserved_op]
  rcases commandEffect_cases s k with ⟨h, e⟩ | ⟨h, -, e⟩ | ⟨h, -, e⟩ | ⟨h, h', e⟩
  · rw [e, State.setupEffect_errCmd]; simp [h]
  · rw [e, State.raiseErrState_errCmd]; simp [h]
  · rw [e, State.startFrame_errCmd]; simp [h]
  · rw [e, State.raiseErrCmd_errCmd]; simp [h, h']

theorem commandEffect_phase_eq_tx_iff {s : State} (hp : s.phase = .idle) (k : Command) :
    (s.commandEffect k).phase = .tx ↔ k.op = 0b10#2 ∧ s.configured = true := by
  rcases commandEffect_cases s k with ⟨h, e⟩ | ⟨-, hc, e⟩ | ⟨h, hc, e⟩ | ⟨-, h, e⟩
  · rw [e, State.setupEffect_phase]; simp [hp, h]
  · rw [e, State.raiseErrState_phase]; simp [hp, hc]
  · rw [e, State.startFrame_phase]; simp [h, hc]
  · rw [e, State.raiseErrCmd_phase]; simp [hp, h]

/-! ### The flags and `PHASE` after an edge -/

/-- A sticky flag after an edge: reset alone clears it, an accepted command alone raises it (R28, R29). -/
theorem edge_stickyFlag {flag : Block → Bit} {raisedBy : Block → Command → Bit} (reset : flag Block.reset = false)
    (sequence : ∀ t b, flag (Block.sequence t b) = flag b)
    (command : ∀ s k, flag (State.commandEffect s k).toBlock = (flag s.toBlock || raisedBy s.toBlock k))
    (s : State) (p : Ports) :
    flag (s.edge p).toBlock =
      (!p.rst && (flag s.toBlock || (s.toBlock.accepts p && raisedBy s.toBlock (p.command s.cfg)))) := by
  rcases edge_cases_accepts s p with ⟨hr, e⟩ | ⟨hr, -, ha, e⟩ | ⟨hr, -, ha, e⟩ | ⟨hr, -, ha, e⟩
  · simp [e, hr, reset]
  · simp [e, hr, ha, sequence]
  · simp [e, hr, ha, command]
  · simp [e, hr, ha]

/-- Settles O38: CONFIGURED is a sticky flag that SETUP raises. -/
theorem configuredAfterAnEdge : Obligations.ConfiguredAfterAnEdge := by
  intro s t h
  rw [eq_of_step h]
  exact edge_stickyFlag (raisedBy := fun _ k => k.op == 0b01#2) rfl Block.sequence_configured commandEffect_configured
    s s.ports

/-- Settles O39: ERR_STATE is a sticky flag that SEND raises before configuration. -/
theorem errStateAfterAnEdge : Obligations.ErrStateAfterAnEdge := by
  intro s t h
  rw [eq_of_step h, Bool.and_assoc]
  exact edge_stickyFlag (raisedBy := fun b k => k.op == 0b10#2 && !b.configured) rfl Block.sequence_errState
    commandEffect_errState s s.ports

/-- Settles O40: ERR_CMD is a sticky flag that the reserved codes raise. -/
theorem errCmdAfterAnEdge : Obligations.ErrCmdAfterAnEdge := by
  intro s t h
  rw [eq_of_step h]
  exact edge_stickyFlag (raisedBy := fun _ k => k.op == 0b00#2 || k.op == 0b11#2) rfl Block.sequence_errCmd
    commandEffect_errCmd s s.ports

/-- Settles O42: the branches of R180, and where each leaves `PHASE`. -/
theorem phaseAfterAnEdge : Obligations.PhaseAfterAnEdge := by
  intro s t h
  rw [eq_of_step h, State.accepts, State.hostFrom_phase]
  rcases edge_cases_accepts s s.ports with ⟨hr, e⟩ | ⟨hr, hp, ha, e⟩ | ⟨hr, hp, ha, e⟩ | ⟨hr, hp, ha, e⟩
  · rw [e, State.resetEdge_phase]
    simp [hr]
  · rw [e, sequencerEdge_phase_eq_tx_iff hp]
    simp [hr, hp, ha]
  · simp [e, hr, hp, ha, commandEffect_phase_eq_tx_iff]
  · simp [e, hr, hp, ha]

/-! ### The buffer after an instruction (R22, R50) -/

/-- What an instruction makes of the buffer where it does its work on it; a command in a frame does not (R175). -/
def bufferWritten (i : Instr) (m : Memory) : Memory :=
  match i with
  | .setup id => writeId id (writeType m)
  | .send rt acc => messageOf rt acc m
  | .setType => writeType m
  | .setId id => writeId id m
  | .setConsumption rt acc => packConsumption rt acc m
  | .calculateAndSetChecksum => placeChecksum m
  | _ => m

theorem commandEdge_buf (s : State) (f : State → State) :
    (s.commandEdge f).buf = s.buf ∨ (s.commandEdge f).buf = (f s).buf := by
  cases hp : s.phase with
  | tx => rw [commandEdge_tx hp]; exact .inl (by simp)
  | idle => rw [commandEdge_idle hp]; exact .inr rfl

theorem sendEffect_buf (s : State) (rt acc : Nat) :
    (s.sendEffect rt acc).buf = s.buf ∨ (s.sendEffect rt acc).buf = messageOf rt acc s.buf := by
  cases hc : s.configured with
  | false => rw [sendEffect_unconfigured hc]; exact .inl rfl
  | true => rw [sendEffect_configured hc]; exact .inr rfl

@[simp] theorem State.oneOrZero_buf (s : State) (v : Bit) : (s.oneOrZero v).buf = s.buf := by
  rw [State.oneOrZero_eq]

@[simp] theorem State.bits_buf (s : State) (vs : List Bit) : (s.bits vs).buf = s.buf := by
  rw [State.bits_eq]

/-- A guarded arm answers a next state only where its guard holds. -/
theorem eq_of_guarded {p : Prop} [Decidable p] {s t : State} {r : Host.Outcome State Fault Refusal}
    (h : (if p then .next s else r) = .next t) (hr : r ≠ .next t) : s = t := by
  split at h
  · cases h; rfl
  · exact absurd h hr

/-- An instruction that answers a next state leaves the buffer as it is, or does its work on it. -/
theorem exec_buf {i : Instr} {s t : State} (h : exec i s = .next t) :
    t.buf = s.buf ∨ t.buf = bufferWritten i s.buf := by
  cases i with
  | setup id => cases h; exact commandEdge_buf s (State.setupEffect id)
  | send rt acc =>
    cases eq_of_guarded h nofun
    rcases commandEdge_buf s (State.sendEffect rt acc) with e | e
    · exact .inl e
    · rw [e]; exact sendEffect_buf s rt acc
  | rsvd0 => cases h; exact commandEdge_buf s State.raiseErrCmd
  | rsvd3 => cases h; exact commandEdge_buf s State.raiseErrCmd
  | sendZero => cases h; exact .inl rfl
  | sendOne => cases h; exact .inl rfl
  | sendBit v => cases h; exact .inl (s.oneOrZero_buf v)
  | sendPreamble => cases h; exact .inl (s.bits_buf _)
  | sendData size => cases eq_of_guarded h nofun; exact .inl (s.bits_buf _)
  | sendPostamble => cases h; exact .inl (s.bits_buf _)
  | sendOregon size => cases eq_of_guarded h nofun; simp
  | sequencerStep =>
    cases hp : s.phase <;> simp only [exec, execSequencerStep, hp] at h <;> cases h
    · exact .inl rfl
    · exact .inl (by simp)
  | setType => cases h; exact .inr rfl
  | setId id => cases h; exact .inr rfl
  | setConsumption rt acc => cases eq_of_guarded h nofun; exact .inr rfl
  | scaledRealtime rt => cases eq_of_guarded h nofun; exact .inl rfl
  | scaledAccumulated acc => cases eq_of_guarded h nofun; exact .inl rfl
  | sum count => cases eq_of_guarded h nofun; exact .inl rfl
  | calculateAndSetChecksum => cases h; exact .inr rfl

theorem wf_bufferWritten (i : Instr) {m : Memory} (w : m.wf = true) : (bufferWritten i m).wf = true := by
  cases i with
  | setup id => exact wf_writeId id (wf_writeType w)
  | send rt acc => exact wf_messageOf rt acc w
  | setType => exact wf_writeType w
  | setId id => exact wf_writeId id w
  | setConsumption rt acc => exact wf_packConsumption rt acc w
  | calculateAndSetChecksum => exact wf_placeChecksum w
  | _ => exact w

/-- SETUP, setType and setId apart, an instruction writes no byte below address 3 (R22). -/
theorem read_bufferWritten_identity {i : Instr} (m : Memory) {a : Nat} (hType : i ≠ .setType) (hId : ∀ id, i ≠ .setId id)
    (hSetup : ∀ id, i ≠ .setup id) (ha : a < 3) : (bufferWritten i m).read a = m.read a := by
  cases i with
  | setup id => exact absurd rfl (hSetup id)
  | setType => exact absurd rfl hType
  | setId id => exact absurd rfl (hId id)
  | send rt acc => exact read_messageOf_low rt acc m ha
  | setConsumption rt acc => exact read_packConsumption_other rt acc m (.inl ha)
  | calculateAndSetChecksum => exact read_placeChecksum_other m (by omega) (by omega)
  | _ => rfl

/-- Settles O28: the other instructions' writes lie above byte 2. -/
theorem onlySetupWritesTheIdentityBytes : Obligations.OnlySetupWritesTheIdentityBytes := by
  intro i s t h hType hId hSetup a ha
  rcases exec_buf h with e | e
  · rw [e]
  · rw [e, read_bufferWritten_identity s.buf hType hId hSetup ha]

/-- Settles O54: every write names an address of the buffer. -/
theorem everyInstructionKeepsTheBufferCanonical : Obligations.EveryInstructionKeepsTheBufferCanonical := by
  intro i s t w h
  rcases exec_buf h with e | e
  · rwa [e]
  · rw [e]
    exact wf_bufferWritten i w

/-! ### The invariants at reset (R35, R37) -/

/-- Settles O44, element by element. -/
theorem resetValues : Obligations.ResetValues :=
  ⟨Memory.read_nil, rfl, rfl, rfl, rfl, rfl, rfl, rfl, rfl, rfl⟩

/-- A block at its reset values has the invariants, whatever the host has to do. -/
theorem State.Inv.of_block_reset {s : State} (hb : s.toBlock = Block.reset) (legal : s.cfg.Legal)
    (recorded : ∀ g ∈ s.line.head?, g.level = false) : s.Inv := by
  obtain ⟨b, cfg, host, line, returned⟩ := s
  cases hb
  exact {
    legal := legal
    canonical := State.reset_buf_wf
    idle := fun _ => ⟨rfl, rfl, rfl⟩
    sending := nofun
    typed := nofun
    blank := fun _ => Memory.read_nil
    zeroNibbles := by simp [nibLo_eq, nibHi_eq]
    summed := nofun
    levelled := nofun
    recorded := recorded }

/-- Settles O51, as the reset state's case of what holds after every reset edge. -/
theorem invariantsHoldAtReset : Obligations.InvariantsHoldAtReset :=
  .of_block_reset rfl (by decide) nofun

/-! ### Every edge keeps the invariants (R37) -/

/-- Bytes 3 and 12 of a message have a zero nibble by R132's and R152's formulas (R37 (5)). -/
theorem zeroNibbles_messageOf (rt acc : Nat) (m : Memory) :
    nibLo ((messageOf rt acc m).read 3) = 0 ∧ nibHi ((messageOf rt acc m).read 12) = 0 := by
  obtain ⟨byte3, -⟩ := reads_packConsumption rt acc m
  obtain ⟨-, byte12⟩ := reads_placeChecksum (packConsumption rt acc m)
  constructor
  · rw [read_messageOf_below _ _ _ (by omega), byte3, nibLo_eq, byteOf_toNat, Nat.shiftLeft_eq]
    omega
  · rw [messageOf, byte12, nibHi_eq, byteOf_toNat, and_low_nibble]
    omega

/-- Below the last segment the segment counter does not wrap (R25). -/
theorem toNat_seg_add_one {k : BitVec 8} (h : k.toNat < 235) : (k + 1#8).toNat = k.toNat + 1 := by
  rw [BitVec.toNat_add, BitVec.toNat_ofNat]
  omega

namespace State.Inv

variable {s : State}

theorem hostFrom (h : s.Inv) (u : State) : (s.hostFrom u).Inv := { h with }

/-- Holding the line is recorded at the level of `TX`. -/
theorem hold (h : s.Inv) (n : Nat) : (s.hold n).Inv := { h with recorded := holdLine_head s.tx n s.line }

theorem resetEdge (h : s.Inv) : s.resetEdge.Inv :=
  .of_block_reset s.resetEdge_toBlock h.legal (holdLine_head false 1 s.line)

theorem raiseErrState (h : s.Inv) : s.raiseErrState.Inv := { h with }

theorem raiseErrCmd (h : s.Inv) : s.raiseErrCmd.Inv := { h with }

/-- SETUP writes R37 (3)'s type bytes, and neither byte 3 nor byte 12. -/
theorem setupEffect (h : s.Inv) (hp : s.phase = .idle) (id : Byte) : (s.setupEffect id).Inv where
  legal := h.legal
  canonical := wf_writeId id (wf_writeType h.canonical)
  idle := h.idle
  sending := fun tx => absurd (hp.symm.trans tx) nofun
  typed := fun _ => by rw [State.setupEffect_buf]; simp [read_setup, type0, type1]
  blank := nofun
  zeroNibbles := by rw [State.setupEffect_buf]; simpa [read_setup] using h.zeroNibbles
  summed := fun tx => absurd (hp.symm.trans tx) nofun
  levelled := fun tx => absurd (hp.symm.trans tx) nofun
  recorded := h.recorded

/-- A frame may start on any buffer that is typed, packed and checksummed as R37 (3), (5) and (6) have it. -/
theorem startFrame {m : Memory} (h : s.Inv) (hc : s.configured = true) (canonical : m.wf = true)
    (typed : m.read 0 = 0x62#8 ∧ m.read 1 = 0x80#8) (zeroNibbles : nibLo (m.read 3) = 0 ∧ nibHi (m.read 12) = 0)
    (summed : ∀ p ∈ checksumBytes (nibbleSum 11 m), m.read p.1 = p.2) : (s.startFrame m).Inv where
  legal := h.legal
  canonical := canonical
  idle := nofun
  sending := fun _ => ⟨hc, Nat.zero_le _, Nat.zero_le _⟩
  typed := fun _ => typed
  blank := fun unconfigured => absurd (hc.symm.trans unconfigured) nofun
  zeroNibbles := zeroNibbles
  summed := fun _ => summed
  levelled := fun _ => by rw [State.startFrame_tx, State.startFrame_buf, State.startFrame_seg]; rfl
  recorded := by rw [State.startFrame_line, State.startFrame_tx]; simp

/-- A performed SEND starts the frame of its message. -/
theorem startMessage (h : s.Inv) (hc : s.configured = true) (rt acc : Nat) :
    (s.startFrame (messageOf rt acc s.buf)).Inv :=
  h.startFrame hc (wf_messageOf rt acc h.canonical) (by simpa [read_messageOf_low] using h.typed hc)
    (zeroNibbles_messageOf rt acc s.buf) fun _ hp => read_messageOf_checksum rt acc s.buf hp

theorem commandEffect (h : s.Inv) (hp : s.phase = .idle) (k : Command) : (s.commandEffect k).Inv := by
  rcases commandEffect_cases s k with ⟨-, e⟩ | ⟨-, -, e⟩ | ⟨-, hc, e⟩ | ⟨-, -, e⟩ <;> rw [e]
  · exact h.setupEffect hp k.id
  · exact h.raiseErrState
  · exact h.startMessage hc k.rt k.acc
  · exact h.raiseErrCmd

/-- The timer counts within its range, a new segment has its own level, and the frame ends low. -/
theorem sequencerEdge (h : s.Inv) (hp : s.phase = .tx) : s.sequencerEdge.Inv := by
  obtain ⟨configured, seg, -⟩ := h.sending hp
  rcases sequencerEdge_cases s with ⟨hc, e⟩ | ⟨-, hs, e⟩ | ⟨-, -, e⟩ <;> rw [e]
  · exact { h with
      idle := fun idle => absurd (hp.symm.trans idle) nofun
      sending := fun _ => ⟨configured, seg, hc⟩
      recorded := holdLine_head s.tx 1 s.line }
  · have next := toNat_seg_add_one hs
    exact { h with
      idle := fun idle => absurd (hp.symm.trans idle) nofun
      sending := fun _ => ⟨configured, next.trans_le hs, Nat.zero_le _⟩
      levelled := fun _ => by rw [next]
      recorded := by simp }
  · exact { h with
      idle := fun _ => ⟨rfl, rfl, rfl⟩
      sending := nofun
      summed := nofun
      levelled := nofun
      recorded := by simp }

/-- Whatever stands on the ports. -/
theorem edge (h : s.Inv) (p : Ports) : (s.edge p).Inv := by
  rcases edge_cases s p with ⟨-, e⟩ | ⟨-, hp, e⟩ | ⟨-, hp, -, e⟩ | ⟨-, -, -, e⟩ <;> rw [e]
  · exact h.resetEdge
  · exact h.sequencerEdge hp
  · exact (h.commandEffect hp _).hold 1
  · exact h.hold 1

end State.Inv

/-- Settles O52: the edge keeps them under any port values, and none of them speaks of the host's list. -/
theorem everyEdgeKeepsTheInvariants : Obligations.EveryEdgeKeepsTheInvariants := by
  intro s t h hs
  rw [eq_of_step hs]
  exact (h.edge s.ports).hostFrom s

/-! ### The width of the timer (R26) -/

/-- The timer's largest value fits the width R26 gives it. -/
theorem tHalf_pred_lt_two_pow_cntWidth (c : Config) : c.tHalf - 1 < 2 ^ c.cntWidth := by
  unfold Config.cntWidth
  split
  · rw [Nat.sub_eq_zero_of_le ‹_›]
    exact Nat.two_pow_pos _
  · exact Nat.lt_log2_self.trans_le (Nat.pow_le_pow_right two_pos (le_max_right _ _))

theorem State.Inv.cnt_le {s : State} (h : s.Inv) : s.cnt ≤ s.cfg.tHalf - 1 := by
  cases hp : s.phase with
  | idle => obtain ⟨-, -, cnt⟩ := h.idle hp; omega
  | tx => obtain ⟨-, -, cnt⟩ := h.sending hp; exact cnt

/-- Settles O53, through the timer's largest value. -/
theorem timerFitsItsWidth : Obligations.TimerFitsItsWidth :=
  fun s h => h.cnt_le.trans_lt (tHalf_pred_lt_two_pow_cntWidth s.cfg)

end Sys2Proof.Machine
end

section
/-! PROOFS. The buffer: where a message's fields stand in its frame (O22), what a frame leaves unchanged (O48), and what stops an
operation on more bytes than the buffer has (O18). -/

namespace Sys2Proof.Machine

/-! ### The bits of a byte of a message (R10, R54) -/

@[simp] theorem testBit_low_nibble_mask (j : Nat) : Nat.testBit 0xF j = decide (j < 4) := Nat.testBit_two_pow_sub_one 4 j

@[simp] theorem testBit_low_byte_mask (j : Nat) : Nat.testBit 0xFF j = decide (j < 8) := Nat.testBit_two_pow_sub_one 8 j

/-- The twelve bits of a sum, one by one (R152). -/
theorem testBit_sumBits (z : Int) (j : Nat) : (sumBits z).testBit j = (BitVec.ofInt 12 z).getLsbD j := by
  rw [sumBits_eq]
  rfl

/-- Bit `j` of byte `i` is frame bit `10 + 8i + j` (R79); here of a byte known by its value. -/
theorem frameBit_of_read {m : Memory} {i j n v : Nat} (hv : m.read i = byteOf v) (hi : i < 13) (hj : j < 8)
    (hn : n = 10 + (8 * i + j)) : frameBit m n = v.testBit j := by
  obtain ⟨byte, bit⟩ : (8 * i + j) / 8 = i ∧ (8 * i + j) % 8 = j := by omega
  rw [hn, frameBit_data m (by omega), byte, bit, Memory.bit, hv, byteOf, BitVec.getLsbD_ofNat]
  simp [hj]

/-! ### The consumption fields of a message (R132) -/

theorem read_messageOf_three (rt acc : Nat) (m : Memory) :
    (messageOf rt acc m).read 3 = byteOf ((scaleRealtime rt &&& 0xF) <<< 4) :=
  read_messageOf_consumption rt acc m (.head _)

theorem read_messageOf_four (rt acc : Nat) (m : Memory) :
    (messageOf rt acc m).read 4 = byteOf ((scaleRealtime rt >>> 4) &&& 0xFF) :=
  read_messageOf_consumption rt acc m (.tail _ (.head _))

theorem read_messageOf_five (rt acc : Nat) (m : Memory) :
    (messageOf rt acc m).read 5 =
      byteOf (((scaleRealtime rt >>> 12) &&& 0xF) ||| ((scaleAccumulated acc &&& 0xF) <<< 4)) :=
  read_messageOf_consumption rt acc m (.tail _ (.tail _ (.head _)))

/-- Bytes 6 to 10 hold the accumulated field above its lowest nibble, a byte each. -/
theorem read_messageOf_accumulated (rt acc : Nat) (m : Memory) {i : Nat} (hi : i < 5) :
    (messageOf rt acc m).read (6 + i) = byteOf ((scaleAccumulated acc >>> (4 + 8 * i)) &&& 0xFF) :=
  read_messageOf_consumption rt acc m (p := (6 + i, byteOf ((scaleAccumulated acc >>> (4 + 8 * i)) &&& 0xFF)))
    (by interval_cases i <;> simp [consumptionBytes])

section Fields

variable (rt acc : Nat) (m : Memory) {j : Nat}

theorem frameBit_messageOf_gap (hj : j < 4) : frameBit (messageOf rt acc m) (34 + j) = false := by
  rw [frameBit_of_read (j := j) (read_messageOf_three rt acc m) (by omega) (by omega) (by omega)]
  simp [hj]

/-- The real-time field: four bits in byte 3, eight in byte 4, four in byte 5 (R56). -/
theorem frameBit_messageOf_realtime (hj : j < 16) :
    frameBit (messageOf rt acc m) (38 + j) = (scaleRealtime rt).testBit j := by
  obtain low | ⟨k, hk, rfl⟩ | ⟨k, hk, rfl⟩ : j < 4 ∨ (∃ k < 8, j = 4 + k) ∨ ∃ k < 4, j = 12 + k := by
    by_cases h : j < 12
    · by_cases h' : j < 4
      · exact .inl h'
      · exact .inr (.inl ⟨j - 4, by omega, by omega⟩)
    · exact .inr (.inr ⟨j - 12, by omega, by omega⟩)
  · rw [frameBit_of_read (j := 4 + j) (read_messageOf_three rt acc m) (by omega) (by omega) (by omega)]
    simp [low]
  · rw [frameBit_of_read (j := k) (read_messageOf_four rt acc m) (by omega) hk (by omega)]
    simp [hk]
  · rw [frameBit_of_read (j := k) (read_messageOf_five rt acc m) (by omega) (by omega) (by omega)]
    simp [hk, Nat.not_le.2 hk]

/-- The accumulated field: four bits in byte 5, then five whole bytes (R56). -/
theorem frameBit_messageOf_accumulated (hj : j < 44) :
    frameBit (messageOf rt acc m) (54 + j) = (scaleAccumulated acc).testBit j := by
  obtain low | ⟨i, k, hi, hk, rfl⟩ : j < 4 ∨ ∃ i k, i < 5 ∧ k < 8 ∧ j = 4 + 8 * i + k := by
    by_cases h : j < 4
    · exact .inl h
    · exact .inr ⟨(j - 4) / 8, (j - 4) % 8, by omega, by omega, by omega⟩
  · rw [frameBit_of_read (j := 4 + j) (read_messageOf_five rt acc m) (by omega) (by omega) (by omega)]
    simp [low]
  · rw [frameBit_of_read (j := k) (read_messageOf_accumulated rt acc m hi) (by omega) hk (by omega)]
    simp [hk]

/-! ### The checksum field of a message (R152) -/

theorem read_messageOf_eleven :
    (messageOf rt acc m).read 11 =
      byteOf (((sumBits (nibbleSum 11 (messageOf rt acc m)) &&& 0xF) <<< 4) |||
        ((sumBits (nibbleSum 11 (messageOf rt acc m)) >>> 8) &&& 0xF)) :=
  read_messageOf_checksum rt acc m (.head _)

theorem read_messageOf_twelve :
    (messageOf rt acc m).read 12 = byteOf ((sumBits (nibbleSum 11 (messageOf rt acc m)) >>> 4) &&& 0xF) :=
  read_messageOf_checksum rt acc m (.tail _ (.head _))

/-- The checksum's nibbles 2 and 0 are byte 11, its nibble 1 is the low half of byte 12 (R56). -/
theorem frameBit_messageOf_checksum (hj : j < 4) :
    frameBit (messageOf rt acc m) (98 + j) = (sumBits (nibbleSum 11 (messageOf rt acc m))).testBit (8 + j) ∧
    frameBit (messageOf rt acc m) (102 + j) = (sumBits (nibbleSum 11 (messageOf rt acc m))).testBit j ∧
    frameBit (messageOf rt acc m) (106 + j) = (sumBits (nibbleSum 11 (messageOf rt acc m))).testBit (4 + j) := by
  refine ⟨?_, ?_, ?_⟩
  · rw [frameBit_of_read (j := j) (read_messageOf_eleven rt acc m) (by omega) (by omega) (by omega)]
    simp [hj, Nat.not_le.2 hj]
  · rw [frameBit_of_read (j := 4 + j) (read_messageOf_eleven rt acc m) (by omega) (by omega) (by omega)]
    simp [hj]
  · rw [frameBit_of_read (j := j) (read_messageOf_twelve rt acc m) (by omega) (by omega) (by omega)]
    simp [hj]

theorem frameBit_messageOf_end (hj : j < 4) : frameBit (messageOf rt acc m) (110 + j) = false := by
  rw [frameBit_of_read (j := 4 + j) (read_messageOf_twelve rt acc m) (by omega) (by omega) (by omega)]
  simp

end Fields

/-- Settles O22, field by field. -/
theorem fieldsInFrameOrder : Obligations.FieldsInFrameOrder := by
  intro rt acc m
  refine ⟨fun _ => frameBit_messageOf_gap rt acc m, fun _ => frameBit_messageOf_realtime rt acc m,
    fun _ => frameBit_messageOf_accumulated rt acc m, fun _ hj => ?_, fun _ => frameBit_messageOf_end rt acc m⟩
  simpa only [testBit_sumBits] using frameBit_messageOf_checksum rt acc m hj

/-! ### The frame of a sequencer's edge (R63, R109) -/

/-- Each branch of the sequencer writes `PHASE`, `SEG`, `CNT`, `TX` and the record alone. -/
theorem sequencerEdge_frame (s : State) :
    s.sequencerEdge = { s with phase := s.sequencerEdge.phase, seg := s.sequencerEdge.seg, cnt := s.sequencerEdge.cnt,
                               tx := s.sequencerEdge.tx, line := s.sequencerEdge.line } := by
  rcases sequencerEdge_cases s with ⟨-, e⟩ | ⟨-, -, e⟩ | ⟨-, -, e⟩ <;> rw [e]

/-- Settles O48: an edge of a frame is the sequencer's, after which the host's list moves on. -/
theorem bufferHoldsDuringAFrame : Obligations.BufferHoldsDuringAFrame := by
  intro s t hp hr h
  rw [eq_of_step h, edge_eq_sequencerEdge hp hr, sequencerEdge_frame]
  rfl

/-! ### Bytes that do not exist (R50, R51) -/

/-- Settles O18: the three operations have one guard. -/
theorem bytesBeyondTheBufferFault : Obligations.BytesBeyondTheBufferFault := by
  intro s n hn
  have beyond : ¬n ≤ bufLen := Nat.not_le.2 hn
  exact ⟨if_neg beyond, if_neg beyond, if_neg beyond⟩

end Sys2Proof.Machine
end

section
/-! PROOFS. The encodings: the opcode map (O3), the command word and its bytes read back (O1, O2, O4), a presented word run at the
next edge (O46) and a presented line taken off the host's list (O49), the fields a command ignores (O5), the refusal of a reading
that no port carries (O12), and the operations the opcode table puts in a frame (O60). -/

namespace Sys2Proof

/-! ### The opcode map (R73) -/

/-- Settles O3, row by row. -/
theorem opcodeMapIsTotal : Obligations.OpcodeMapIsTotal := by
  intro k
  have codes : ∀ o : BitVec 2, o = 0b00#2 ∨ o = 0b01#2 ∨ o = 0b10#2 ∨ o = 0b11#2 := by decide
  rcases codes k.op with h | h | h | h <;> simp [decodeCommand, h]

theorem wellFormed_decodeCommand {c : Config} {k : Command} (hr : FitsRt c k.rt) (ha : FitsAcc c k.acc) :
    WellFormed c (decodeCommand k) := by
  rcases opcodeMapIsTotal k with ⟨-, e⟩ | ⟨-, e⟩ | ⟨-, e⟩ | ⟨-, e⟩ <;> rw [e]
  · trivial
  · trivial
  · exact ⟨hr, ha⟩
  · trivial

/-- The tuple presented for a decoded command has the opcode it was decoded from (R72, R73). -/
theorem commandOf_decodeCommand (k : Command) : ∃ l, commandOf (decodeCommand k) = some l ∧ l.op = k.op := by
  rcases opcodeMapIsTotal k with ⟨h, e⟩ | ⟨h, e⟩ | ⟨h, e⟩ | ⟨h, e⟩ <;> rw [e, h]
  all_goals exact ⟨_, rfl, rfl⟩

theorem decodeCommand_of_commandOf {i : Instr} {k : Command} (h : commandOf i = some k) : decodeCommand k = i := by
  cases i <;> cases h <;> rfl

/-- The tuple of a well-formed instruction has readings that fit their ports (R75). -/
theorem fits_of_commandOf {c : Config} {i : Instr} {k : Command} (h : commandOf i = some k) (hi : WellFormed c i) :
    FitsRt c k.rt ∧ FitsAcc c k.acc := by
  cases i <;> cases h
  case send => exact hi
  all_goals exact Laws.EncodeFits.zero_fits c

/-! ### The command word (R76) -/

/-- The readings of an unpacked word fit their ports, whatever the word. -/
theorem unpackCW_fits (c : Config) (w : Nat) : FitsRt c (unpackCW c w).rt ∧ FitsAcc c (unpackCW c w).acc :=
  ⟨Nat.mod_lt _ (Nat.two_pow_pos _), Nat.mod_lt _ (Nat.two_pow_pos _)⟩

/-- The opcode is the word's lowest two bits. -/
theorem packCW_mod_four (c : Config) (k : Command) : packCW c k % 4 = k.op.toNat := by
  have := k.op.isLt
  have acc : 2 ^ (10 + c.wRt) * k.acc = 4 * (256 * 2 ^ c.wRt * k.acc) := by ring
  rw [packCW, acc]
  omega

/-- The fields of the word of a tuple are the tuple's, where its readings fit their ports. -/
theorem unpackCW_packCW {c : Config} {k : Command} (hr : FitsRt c k.rt) (ha : FitsAcc c k.acc) :
    unpackCW c (packCW c k) = k := by
  obtain ⟨op, id, rt, acc⟩ := k
  have := op.isLt
  have := id.isLt
  have word : packCW c ⟨op, id, rt, acc⟩ = op.toNat + 4 * (id.toNat + 256 * (rt + 2 ^ c.wRt * acc)) := by
    simp only [packCW]
    ring
  have above2 : packCW c ⟨op, id, rt, acc⟩ >>> 2 = id.toNat + 256 * (rt + 2 ^ c.wRt * acc) := by
    rw [word, Nat.shiftRight_eq_div_pow]
    omega
  have above10 : packCW c ⟨op, id, rt, acc⟩ >>> 10 = rt + 2 ^ c.wRt * acc := by
    rw [Nat.shiftRight_add _ 2 8, above2, Nat.shiftRight_eq_div_pow]
    omega
  have aboveRt : packCW c ⟨op, id, rt, acc⟩ >>> (10 + c.wRt) = acc := by
    rw [Nat.shiftRight_add, above10, Nat.shiftRight_eq_div_pow, Nat.add_mul_div_left _ _ (Nat.two_pow_pos _),
      Nat.div_eq_of_lt hr, Nat.zero_add]
  simp only [unpackCW, above2, above10, aboveRt, Command.mk.injEq]
  refine ⟨BitVec.eq_of_toNat_eq ?_, BitVec.eq_of_toNat_eq ?_, ?_, Nat.mod_eq_of_lt ha⟩
  · rw [word, BitVec.toNat_ofNat]
    omega
  · rw [BitVec.toNat_ofNat]
    omega
  · rw [Nat.add_mul_mod_self_left, Nat.mod_eq_of_lt hr]

theorem decodeWord_eq_ok_iff {c : Config} {w : Nat} {i : Instr} :
    decodeWord c w = .ok i ↔ w < 2 ^ c.cwBits ∧ decodeCommand (unpackCW c w) = i := by
  unfold decodeWord
  split_ifs with h <;> simp [h]

/-- The word of a well-formed instruction decodes to the instruction. -/
theorem decodeWord_of_encodeWord {c : Config} {i : Instr} {w : Nat} (hi : WellFormed c i) (he : encodeWord c i = some w) :
    decodeWord c w = .ok i := by
  obtain ⟨k, hk, rfl⟩ := Option.map_eq_some_iff.1 he
  obtain ⟨hr, ha⟩ := fits_of_commandOf hk hi
  rw [decodeWord_eq_ok_iff, unpackCW_packCW hr ha]
  exact ⟨Laws.packCW_lt hr ha, decodeCommand_of_commandOf hk⟩

/-- Settles O2: the word `w'` is that of the decoded command, its ignored fields 0. -/
theorem everyCommandWordDecodes : Obligations.EveryCommandWordDecodes := by
  refine fun c w => ⟨fun hw => ?_, fun hw => if_neg (Nat.not_lt.2 hw)⟩
  obtain ⟨hr, ha⟩ := unpackCW_fits c w
  obtain ⟨l, hl, op⟩ := commandOf_decodeCommand (unpackCW c w)
  have wf := wellFormed_decodeCommand hr ha
  have enc : encodeWord c (decodeCommand (unpackCW c w)) = some (packCW c l) := by rw [encodeWord, hl]; rfl
  refine ⟨_, _, decodeWord_eq_ok_iff.2 ⟨hw, rfl⟩, wf, enc, ?_, decodeWord_of_encodeWord wf enc⟩
  rw [packCW_mod_four, op]
  exact BitVec.toNat_ofNat w 2

/-- Settles O4: each is the command's own word. -/
theorem specCommandWordsDecode : Obligations.SpecCommandWordsDecode :=
  ⟨decodeWord_of_encodeWord trivial rfl, decodeWord_of_encodeWord (by decide) rfl,
    decodeWord_of_encodeWord (by decide) rfl, decodeWord_of_encodeWord trivial rfl, decodeWord_of_encodeWord trivial rfl⟩

/-! ### The bytes of a command word (log 14) -/

@[simp] theorem length_bytesOfNat (n w : Nat) : (bytesOfNat n w).length = n := by
  induction n generalizing w with
  | zero => rfl
  | succ n ih => rw [bytesOfNat, List.length_cons, ih]

/-- The bytes laid out hold the number's lowest bytes. -/
theorem natOfBytes_bytesOfNat (n w : Nat) : natOfBytes (bytesOfNat n w) = w % 256 ^ n := by
  induction n generalizing w with
  | zero => rw [pow_zero, Nat.mod_one]; rfl
  | succ n ih => rw [pow_succ', Nat.mod_mul, bytesOfNat, natOfBytes, ih, BitVec.toNat_ofNat]

/-- The whole bytes of a command word have room for its bits. -/
theorem two_pow_cwBits_le (c : Config) : 2 ^ c.cwBits ≤ 256 ^ c.cwBytes := by
  rw [show 256 = 2 ^ 8 from rfl, ← pow_mul, Config.cwBytes]
  exact Nat.pow_le_pow_right (by decide) (by omega)

theorem decode_bytesOfNat {c : Config} {w : Nat} (h : w < 2 ^ c.cwBits) :
    decode c (bytesOfNat c.cwBytes w) = decodeWord c w := by
  rw [decode, if_pos (length_bytesOfNat _ _), natOfBytes_bytesOfNat, Nat.mod_eq_of_lt (h.trans_le (two_pow_cwBits_le c))]

/-- Settles O1: the bytes give the word back, and the word its command. -/
theorem decodeOfEncodeIsTheCommand : Obligations.DecodeOfEncodeIsTheCommand := by
  intro c i bs hi he
  obtain ⟨w, hw, rfl⟩ := Option.map_eq_some_iff.1 he
  have decodes := decodeWord_of_encodeWord hi hw
  rw [decode_bytesOfNat (decodeWord_eq_ok_iff.1 decodes).1, decodes]

end Sys2Proof

namespace Sys2Proof.Machine

/-! ### Port values given for one edge (R70, log 1) -/

/-- A step with given port values first in the list: their edge, after which the host goes on with its list. -/
theorem step_ports (s : State) (p : Ports) (r : List HostLine) :
    step { s with host := .ports p :: r } = .next { s.edge p with host := r } := by
  rw [step_eq, show State.ports { s with host := .ports p :: r } = p from rfl, edge_with_host]
  rfl

/-- An accepted command has the effect of its decoded fields alone (R72). -/
theorem commandEffect_congr (s : State) {k l : Command} (op : k.op = l.op) (id : k.op = 0b01#2 → k.id = l.id)
    (readings : k.op = 0b10#2 → k.rt = l.rt ∧ k.acc = l.acc) : s.commandEffect k = s.commandEffect l := by
  unfold State.commandEffect
  rw [← op]
  split_ifs with h1 h2
  · rw [id h1]
  · obtain ⟨hr, ha⟩ := readings h2
    rw [hr, ha]
  · rfl

/-- The edge that accepts a command (R71) runs the tuple on its ports. -/
theorem edge_eq_commandEffect {s : State} {p : Ports} (hr : p.rst = false) (hp : s.phase = .idle) (hv : p.cmdValid = true) :
    s.edge p = (s.commandEffect (p.command s.cfg)).hold 1 := by
  simp [State.edge, hr, hp, hv]

/-- Settles O5: both edges take the same branch of R180, and only an accepted command reads more of the ports. -/
theorem ignoredFieldsHaveNoEffect : Obligations.IgnoredFieldsHaveNoEffect := by
  intro s p q r rst valid fields
  suffices same : s.edge p = s.edge q by rw [step_ports, step_ports, same]
  rcases edge_cases s p with ⟨hr, -⟩ | ⟨hr, hp, e⟩ | ⟨hr, hp, hv, e⟩ | ⟨hr, hp, hv, e⟩
  · simp [State.edge, ← rst, hr]
  · rw [e, edge_eq_sequencerEdge hp (rst ▸ hr)]
  · obtain ⟨op, id, readings⟩ := fields (by simp [Block.accepts, Block.cmdReady, hr, hp, hv])
    rw [e, edge_eq_commandEffect (rst ▸ hr) hp (valid ▸ hv)]
    refine congrArg (State.hold · 1) (commandEffect_congr s op id fun send => ?_)
    obtain ⟨hrt, hacc⟩ := readings send
    simp [Ports.command, hrt, hacc]
  · simp [State.edge, ← rst, hr, hp, ← valid, hv]

/-- A tuple whose readings fit their ports is read off them as it was presented. -/
theorem command_present {c : Config} {k : Command} (hr : FitsRt c k.rt) (ha : FitsAcc c k.acc) :
    (Ports.present k).command c = k := by
  simp [Ports.command, Ports.present, Nat.mod_eq_of_lt hr, Nat.mod_eq_of_lt ha]

/-- Settles O46: the word's fields stand on the ports, and their edge is the one that accepts them. -/
theorem presentedWordRunsAtTheNextEdge : Obligations.PresentedWordRunsAtTheNextEdge := by
  intro s nbits w i hw hi
  obtain ⟨hr, ha⟩ := unpackCW_fits s.cfg w
  have ports : (s.withFetchWord nbits w).ports = .present (unpackCW s.cfg w) := by
    rw [State.ports, State.withFetchWord_host, Nat.mod_eq_of_lt hw]
    rfl
  have edge : (s.withFetchWord nbits w).edge (.present (unpackCW s.cfg w)) =
      (s.withFetchWord nbits w).commandEdge fun t => t.commandEffect (unpackCW s.cfg w) := by
    rw [edge_eq_commandEffect rfl rfl rfl, commandEdge_idle rfl, State.withFetchWord_cfg, command_present hr ha]
  rw [← (decodeWord_eq_ok_iff.1 hi).2]
  refine ⟨_, exec_decodeCommand hr ha, ?_⟩
  rw [step_eq, ports, edge]
  rfl

/-! ### A presented line (R71, R78) -/

/-- A line that presents a command puts its tuple on the ports, with `RST` = 0 and `CMD_VALID` = 1. -/
theorem drives_of_command {l : HostLine} {k : Command} (h : l.command = some k) : l.drives = .present k := by
  cases l <;> cases h <;> rfl

/-- A presented command is accepted exactly when the block is ready. -/
theorem accepts_of_presented {s : State} {l : HostLine} {r : List HostLine} (h : pendingLines s.host = l :: r)
    (hl : l.command ≠ none) : s.accepts = s.cmdReady := by
  obtain ⟨k, hk⟩ := Option.ne_none_iff_exists'.1 hl
  have ports : s.ports = .present k := by rw [State.ports, h, ← drives_of_command hk]
  rw [State.accepts, ports]
  rfl

/-- The host goes on after an accepted line and keeps one that was not accepted. -/
theorem hostAfter_of_presented {s : State} {l : HostLine} {r : List HostLine} (h : pendingLines s.host = l :: r)
    (hl : l.command ≠ none) (after : Phase) : hostAfter s after = if s.accepts then r else l :: r := by
  unfold hostAfter
  rw [h]
  cases l
  case setup | send | rsvd => rfl
  all_goals exact absurd rfl hl

/-- Settles O49: the block is ready in `IDLE` alone. -/
theorem acceptedLineLeavesThePort : Obligations.AcceptedLineLeavesThePort := by
  intro s t l r h hl hs
  rw [eq_of_step hs, State.hostFrom_host, hostAfter_of_presented h hl, accepts_of_presented h hl]
  exact ⟨fun hp => by simp [Block.cmdReady, hp], fun hp => by simp [Block.cmdReady, hp]⟩

/-! ### Readings that no port carries (I4, log 12) -/

/-- Settles O12: each of the four is guarded by the widths of the readings it takes. -/
theorem tooWideReadingsAreRefused : Obligations.TooWideReadingsAreRefused := by
  refine fun s rt acc => ⟨fun wide => ?_, fun wide => if_neg (Nat.not_lt.2 wide), fun wide => if_neg (Nat.not_lt.2 wide)⟩
  have unfit : ¬(FitsRt s.cfg rt ∧ FitsAcc s.cfg acc) := by omega
  exact ⟨if_neg unfit, if_neg unfit⟩

/-! ### The operations in progress (R79, R81) -/

theorem mem_activeOps {s : State} (h : s.phase = .tx) (i : Instr) :
    i ∈ s.activeOps ↔ i = .sendOregon 13 ∨ partOp s.seg.toNat = some i ∨
      i = .sendBit (frameBit s.buf (s.seg.toNat / 2)) ∨ i = bitOp s.buf (s.seg.toNat / 2) ∨ i = .sequencerStep := by
  simp [State.activeOps, h, bufLen]

/-- The part of the frame a segment lies in (R81). -/
theorem partOp_cases (k : Nat) :
    (k ≤ 19 ∧ partOp k = some .sendPreamble) ∨ (20 ≤ k ∧ k ≤ 227 ∧ partOp k = some (.sendData 13)) ∨
    (228 ≤ k ∧ k ≤ 235 ∧ partOp k = some .sendPostamble) ∨ (236 ≤ k ∧ partOp k = none) := by
  by_cases pre : k < 20
  · exact .inl ⟨by omega, if_pos pre⟩
  by_cases data : k < 228
  · exact .inr (.inl ⟨by omega, by omega, (if_neg pre).trans (if_pos data)⟩)
  by_cases post : k < 236
  · exact .inr (.inr (.inl ⟨by omega, by omega, (if_neg pre).trans ((if_neg data).trans (if_pos post))⟩))
  · exact .inr (.inr (.inr ⟨by omega, (if_neg pre).trans ((if_neg data).trans (if_neg post))⟩))

/-- The bit primitive is sendOne or sendZero, by the frame bit, and no other operation (R79). -/
theorem eq_bitOp_iff (m : Memory) (n : Nat) (i : Instr) :
    i = bitOp m n ↔ i = .sendOne ∧ frameBit m n = true ∨ i = .sendZero ∧ frameBit m n = false := by
  unfold bitOp
  split_ifs with h <;> simp [h]

/-- Settles O60: the four ranges of `SEG`, and the two values of the frame bit. -/
theorem operationsInProgress : Obligations.OperationsInProgress := by
  intro s hp
  simp only [mem_activeOps hp, eq_bitOp_iff]
  rcases partOp_cases s.seg.toNat with ⟨_, e⟩ | ⟨_, _, e⟩ | ⟨_, _, e⟩ | ⟨_, e⟩ <;> simp [e] <;> omega

end Sys2Proof.Machine
end

section
/-! PROOFS. The line encoder (spec 40_line_encoder.md). The frame level: the bit primitives and the parts of a frame (O13 to O17), the
levels of a frame's segments (O21) and two counts over them (O23, O24). The cycle level: the sequencer's branches (O19), a frame edge
by edge (O55) and its wall-clock time (O58). -/

namespace Sys2Proof.Machine

/-! ### The bit primitives and the parts of a frame (R100 to R107) -/

/-- Settles O13: all three are `State.oneOrZero`, whose two segments `State.oneOrZero_eq` gives. -/
theorem bitPrimitivesDriveTwoHalfBits : Obligations.BitPrimitivesDriveTwoHalfBits := by
  intro s
  have bit (v : Bit) := congrArg (Host.Outcome.next (φ := Fault) (ρ := Refusal)) (s.oneOrZero_eq v)
  exact ⟨bit false, bit true, bit⟩

/-- Settles O14: both are runs of equal bits, whose segments `State.bits_eq` gives; ten 1 bits and four 0 bits, written out. -/
theorem preambleAndPostambleAlternate : Obligations.PreambleAndPostambleAlternate := fun s =>
  ⟨congrArg Host.Outcome.next (s.bits_eq preambleBits), congrArg Host.Outcome.next (s.bits_eq postambleBits)⟩

theorem exec_sendData {size : Nat} (h : size ≤ 13) (s : State) :
    exec (.sendData size) s = .next (s.bits (dataBits s.buf size)) :=
  if_pos h

theorem exec_sendOregon {size : Nat} (h : size ≤ 13) (s : State) :
    exec (.sendOregon size) s = .next (((s.bits preambleBits).bits (dataBits s.buf size)).bits postambleBits) :=
  if_pos h

theorem length_bitSegments (t : Nat) (vs : List Bit) : (bitSegments t vs).length = 2 * vs.length := by
  induction vs with
  | nil => rfl
  | cons v vs ih => simp [ih]; omega

/-- Bit `n` of a run of bits is its segments `2n` and `2n + 1`: the bit, then its complement (R80). -/
theorem getElem?_bitSegments (t : Nat) (vs : List Bit) (n : Nat) :
    (bitSegments t vs)[2 * n]? = vs[n]?.map (⟨·, t⟩) ∧ (bitSegments t vs)[2 * n + 1]? = vs[n]?.map fun v => ⟨!v, t⟩ := by
  induction vs generalizing n with
  | nil => simp
  | cons v vs ih =>
    cases n with
    | zero => simp
    | succ n => simpa [Nat.mul_succ] using ih n

/-- Bit `j` of byte `i` is bit `8i + j` of the payload (R105). -/
theorem getElem?_dataBits (m : Memory) {size i j : Nat} (hi : i < size) (hj : j < 8) :
    (dataBits m size)[8 * i + j]? = some (m.bit i j) := by
  have place : 8 * i + j < 8 * size ∧ (8 * i + j) / 8 = i ∧ (8 * i + j) % 8 = j := by omega
  simp [dataBits_eq_map_range, place]

/-- Settles O15: the segments of `State.bits_eq`, found by the place of the bit in the payload. -/
theorem sendDataSendsBytesLowestBitFirst : Obligations.SendDataSendsBytesLowestBitFirst := by
  intro s size hsize
  refine ⟨_, bitSegments s.cfg.tHalf (dataBits s.buf size), exec_sendData hsize s, ?_, ?_, fun i j hi hj => ?_⟩
  · rw [State.bits_eq]
  · rw [length_bitSegments, dataBits_eq_map_range, List.length_map, List.length_range]
    omega
  · rw [show 16 * i + 2 * j = 2 * (8 * i + j) by omega]
    simpa [getElem?_dataBits s.buf hi hj, Memory.bit] using getElem?_bitSegments s.cfg.tHalf (dataBits s.buf size) (8 * i + j)

/-- Settles O16: the preamble leaves the buffer that sendData then reads. -/
theorem sendOregonIsPreambleDataPostamble : Obligations.SendOregonIsPreambleDataPostamble := by
  intro s size hsize
  refine ⟨s.bits preambleBits, _, _, rfl, exec_sendData hsize _, rfl, ?_⟩
  rw [State.bits_buf, exec_sendOregon hsize]

/-- Settles O17: the closed form of sendOregon's line. -/
theorem sendOregonSendsTheWaveform : Obligations.SendOregonSendsTheWaveform := exec_sendOregon_waveform

/-! ### The levels of a frame (R108, R113) -/

/-- Bit `j` of byte `i` is frame bit `10 + 8i + j` (R79). -/
theorem frameBit_byte (m : Memory) {i j : Nat} (hi : i < 13) (hj : j < 8) :
    frameBit m (10 + (8 * i + j)) = (m.read i).getLsbD j := by
  obtain ⟨data, byte, bit⟩ : 8 * i + j < 104 ∧ (8 * i + j) / 8 = i ∧ (8 * i + j) % 8 = j := by omega
  rw [frameBit_data m data, byte, bit, Memory.bit]

/-- Settles O21: a segment's level is its frame bit or the complement, and the frame bits are known part by part. -/
theorem segmentLevelsOfAFrame : Obligations.SegmentLevelsOfAFrame := by
  refine fun m => ⟨fun n hn => ?_, fun i j hi hj => ?_, fun n hn _ => ?_⟩
  · simp [level_even, level_odd, frameBit_preamble m hn]
  · rw [show 20 + 16 * i + 2 * j = 2 * (10 + (8 * i + j)) by omega, level_even, level_odd, frameBit_byte m hi hj]
    exact ⟨rfl, rfl⟩
  · simp [level_even, level_odd, frameBit_postamble m hn]

/-- One more level changes the line where it differs from the last one. -/
theorem levelChanges_append_pair (b k l : Bit) (ls : List Bit) :
    levelChanges b (ls ++ [k, l]) = levelChanges b (ls ++ [k]) + if k = l then 0 else 1 := by
  induction ls generalizing b with
  | nil => simp [levelChanges]
  | cons a ls ih => simp [levelChanges, ih, Nat.add_assoc]

theorem levelChanges_range_succ (b : Bit) (f : Nat → Bit) (k : Nat) :
    levelChanges b ((List.range (k + 2)).map f) =
      levelChanges b ((List.range (k + 1)).map f) + if f k = f (k + 1) then 0 else 1 := by
  simpa [List.range_succ] using levelChanges_append_pair b (f k) (f (k + 1)) ((List.range k).map f)

/-- The line rises into a frame, changes once within each bit, and changes between two bits where they are equal (R113). -/
theorem levelChanges_bits (m : Memory) (n : Nat) :
    levelChanges false ((List.range (2 * n + 1)).map (level m)) =
      1 + n + ((List.range n).filter fun i => frameBit m i == frameBit m (i + 1)).length := by
  induction n with
  | zero => simp [levelChanges]
  | succ n ih =>
    have next : level m (2 * n + 2) = frameBit m (n + 1) := level_even m (n + 1)
    rw [Nat.mul_succ, levelChanges_range_succ, levelChanges_range_succ, ih, level_even, level_odd, next, List.range_succ]
    by_cases same : frameBit m n = frameBit m (n + 1)
    · simp [same]
      omega
    · simp [Bool.eq_not.2 same]
      omega

/-- The final low is the level the frame's formula gives one segment more: after the postamble every frame bit is 0. -/
theorem frameDrives_eq_levels (m : Memory) : frameDrives m = (List.range 237).map (level m) := by
  rw [List.range_succ, List.map_append]
  rfl

/-- Settles O23: of the 118 neighbours, the last two are the postamble's 0 and the 0 after it. -/
theorem levelChangesInAFrame : Obligations.LevelChangesInAFrame := by
  intro m
  have last : frameBit m 117 = frameBit m 118 := rfl
  rw [frameEdges, frameDrives_eq_levels, levelChanges_bits m 118, List.range_succ]
  simp [last]
  omega

/-- A bit is high for one of its two halves (R80). -/
theorem length_filter_level (m : Memory) (n : Nat) : ((List.range (2 * n)).filter (level m)).length = n := by
  induction n with
  | zero => rfl
  | succ n ih =>
    rw [Nat.mul_succ, List.range_succ, List.range_succ]
    cases h : frameBit m n <;> simp [level_even, level_odd, h, ih]

/-- Settles O24: 118 bits. -/
theorem everyFrameIsHighHalfTheTime : Obligations.EveryFrameIsHighHalfTheTime := fun m => length_filter_level m 118

/-! ### The sequencer and its frame (R109, R111) -/

/-- Settles O19: `sequencerEdge`'s three equations, and `SEG` counting on without wrapping. -/
theorem sequencerStepBranches : Obligations.SequencerStepBranches := by
  intro s hp
  have run : exec .sequencerStep s = .next s.sequencerEdge := by simp [exec, execSequencerStep, hp]
  refine ⟨_, run, fun stay => ?_, fun go more => ?_, fun go done => ?_⟩
  · rw [sequencerEdge_stay stay]
  · rw [sequencerEdge_advance go more]
    exact ⟨rfl, toNat_seg_add_one more⟩
  · rw [sequencerEdge_finish go done]

/-- Cycle `j` of segment `k` of a frame comes `k * T_HALF_CYCLES + j` edges after its start (R111). -/
theorem runFor_segment {s : State} (hs : s.FrameStart) (hr : s.NoResetFor (236 * s.cfg.tHalf - 1)) {k j : Nat} (hk : k < 236)
    (hj : j < s.cfg.tHalf) : ∃ t, runFor (k * s.cfg.tHalf + j) s = .next t ∧ s.InFrame k j t := by
  obtain ⟨segment, cycle⟩ : (k * s.cfg.tHalf + j) / s.cfg.tHalf = k ∧ (k * s.cfg.tHalf + j) % s.cfg.tHalf = j :=
    (Nat.div_mod_unique (Nat.zero_lt_of_lt hj)).2 ⟨by rw [Nat.mul_comm, Nat.add_comm], hj⟩
  have within : k * s.cfg.tHalf + j < 236 * s.cfg.tHalf := by nlinarith
  obtain ⟨t, run, inFrame⟩ := runFor_inFrame (Nat.one_le_of_lt hj) hs within (hr.mono (by omega))
  rw [segment, cycle] at inFrame
  exact ⟨t, run, inFrame⟩

/-- The last edge of segment 235 makes the block idle and the line low, as a reset there does, and without reset it leaves `BUF` and
`CONFIGURED` as at the frame's start (R109, R220). -/
theorem State.InFrame.edge_after_last {s t : State} {j : Nat} (h : s.InFrame 235 j t) (hj : j + 1 = s.cfg.tHalf)
    (hphase : s.phase = .tx) (p : Ports) :
    (t.edge p).Quiet ∧ (p.rst = false → (t.edge p).buf = s.buf ∧ (t.edge p).configured = s.configured) := by
  rcases edge_cases t p with ⟨reset, e⟩ | ⟨-, -, e⟩ | ⟨-, idle, -⟩ | ⟨-, idle, -⟩
  · rw [e]
    exact ⟨⟨rfl, rfl, rfl, rfl⟩, fun noReset => by simp [reset] at noReset⟩
  · rw [e, sequencerEdge_finish (h.cnt_lt_iff.not.2 (by omega)) (by rw [h.seg_toNat] <;> omega)]
    exact ⟨⟨rfl, rfl, rfl, rfl⟩, fun _ => ⟨h.buf_eq, by rw [h.block]; rfl⟩⟩
  all_goals simp [h.phase_eq, hphase] at idle

/-- Settles O55: where the frame stands after each edge, and its last edge. -/
theorem frameIsCycleExact : Obligations.FrameIsCycleExact := by
  intro s ⟨_, _, hT⟩ start noReset
  refine ⟨fun k j hk hj => ?_, ?_⟩
  · obtain ⟨t, run, inFrame⟩ := runFor_segment start noReset hk hj
    have sending : t.phase = .tx := inFrame.phase_eq.trans start.1
    exact ⟨t, run, inFrame.tx_eq, by simp [Block.busy, sending], by simp [Block.cmdReady, sending]⟩
  · obtain ⟨t, run, inFrame⟩ := runFor_segment start noReset (k := 235) (j := s.cfg.tHalf - 1) (by omega) (by omega)
    rw [show 235 * s.cfg.tHalf + (s.cfg.tHalf - 1) = 236 * s.cfg.tHalf - 1 by omega] at run
    have whole := runFor_add_one run
    rw [show 236 * s.cfg.tHalf - 1 + 1 = 236 * s.cfg.tHalf by omega] at whole
    obtain ⟨quiet, kept⟩ := inFrame.edge_after_last (by omega) start.1 t.ports
    have idle : (t.edge t.ports).phase = .idle := quiet.1
    exact ⟨t, _, run, step_eq t, whole, quiet, by simp [Block.busy, idle], by simp [Block.cmdReady, idle], kept⟩

/-! ### Wall-clock time (R7, R102, R240) -/

/-- With `T_HALF_CYCLES` 488 µs of the clock, `n` half-bits are `n` times 488 µs. -/
theorem microsOf_halfBits {c : Config} (h : c.RealTime) (n : Nat) : microsOf c (n * c.tHalf) = n * 488 := by
  obtain ⟨⟨cycles, hpos, hcycles⟩, hT⟩ := h
  have running : c.fClkHz ≠ 0 := by
    intro stopped
    have : (1 : ℚ) ≤ cycles := by exact_mod_cast hpos
    rw [Config.halfBitCycles, stopped] at hcycles
    linarith
  rw [microsOf, Nat.cast_mul, ← hT, Config.halfBitCycles]
  field_simp

/-- Settles O58: 1, 2 and 236 half-bits; and the frequency of `T_HALF_CYCLES` cycles in 488 µs. -/
theorem wallClockOfAFrame : Obligations.WallClockOfAFrame := by
  refine ⟨fun c h => ?_, fun c hT => ⟨c.tHalf * 1000000 / 488, ?_⟩⟩
  · exact ⟨by simpa using microsOf_halfBits h 1, (microsOf_halfBits h 2).trans (by norm_num),
      (microsOf_halfBits h 236).trans (by norm_num)⟩
  · have halfBit : Config.halfBitCycles { c with fClkHz := c.tHalf * 1000000 / 488 } = c.tHalf := by
      rw [Config.halfBitCycles]
      field_simp
    exact ⟨⟨c.tHalf, hT, halfBit⟩, halfBit⟩

end Sys2Proof.Machine
end

section
/-! PROOFS. The message packer (spec 41_field_packing.md): the identity bytes (O25, O26), the two scalings (O30), the packed
readings byte by byte (O29) and read back (O31). -/

namespace Sys2Proof.Machine

/-! ### setType and setId (R130, R131) -/

/-- Settles O25: at each address the read that `read_writeType` gives. -/
theorem setTypeWritesTheTypeBytes : Obligations.SetTypeWritesTheTypeBytes := by
  refine fun s => ⟨_, rfl, rfl, read_writeType s.buf 0, read_writeType s.buf 1, fun a h0 h1 => ?_⟩
  exact (read_writeType s.buf a).trans (by rw [if_neg h0, if_neg h1])

/-- Settles O26: the write of one byte, read at its address and at every other. -/
theorem setIdWritesByteTwo : Obligations.SetIdWritesByteTwo := fun s id =>
  ⟨_, rfl, rfl, Memory.read_write_same s.buf 2 id, fun _ ha => Memory.read_write_other s.buf id ha⟩

/-! ### The two scalings (R133, R134) -/

/-- R133 divides by 500 and then by 16: the two floors are one. -/
theorem scaleRealtime_eq (rt : Nat) : scaleRealtime rt = rt * 497 / 8000 := Nat.div_div_eq_div_mul (rt * 497) 500 16

theorem scaleAccumulated_eq (acc : Nat) : scaleAccumulated acc = acc * 223666 / 1000 := rfl

theorem exec_scaledRealtime {s : State} {rt : Nat} (h : FitsRt s.cfg rt) :
    exec (.scaledRealtime rt) s = .next { s with returned := some (scaleRealtime rt : Int) } := if_pos h

theorem exec_scaledAccumulated {s : State} {acc : Nat} (h : FitsAcc s.cfg acc) :
    exec (.scaledAccumulated acc) s = .next { s with returned := some (scaleAccumulated acc : Int) } := if_pos h

/-- The accumulated value of the largest 32-bit reading bounds all of them (R134). -/
theorem scaleAccumulated_le {acc : Nat} (h : acc < 2 ^ 32) : scaleAccumulated acc ≤ 0xDFAA7EF8FB := by
  rw [scaleAccumulated_eq]
  omega

/-- Settles O30: the real-time scaling's two floors made one, and the accumulated one's bound. -/
theorem scalingsAreExactFloors : Obligations.ScalingsAreExactFloors := by
  refine fun s rt acc => ⟨fun hr => ?_, exec_scaledAccumulated, scaleAccumulated_le⟩
  rw [exec_scaledRealtime hr, scaleRealtime_eq]

/-! ### setConsumption (R132) -/

/-- The byte of two nibbles, as R132 writes byte 5. -/
theorem nibbles_eq (x y : Nat) : (x &&& 0xF) ||| ((y &&& 0xF) <<< 4) = x % 16 + y % 16 * 16 := by
  rw [and_low_nibble, and_low_nibble, or_shiftLeft_four (Nat.mod_lt x (by decide))]

theorem toNat_byteOf_low_byte (x : Nat) : (byteOf (x &&& 0xFF)).toNat = x &&& 0xFF := by
  rw [byteOf_toNat, and_low_byte, Nat.mod_mod]

theorem toNat_byteOf_nibbles (x y : Nat) :
    (byteOf ((x &&& 0xF) ||| ((y &&& 0xF) <<< 4))).toNat = (x &&& 0xF) ||| ((y &&& 0xF) <<< 4) := by
  rw [byteOf_toNat, nibbles_eq]
  omega

theorem toNat_byteOf_high_nibble (y : Nat) : (byteOf ((y &&& 0xF) <<< 4)).toNat = (y &&& 0xF) <<< 4 := by
  simpa using toNat_byteOf_nibbles 0 y

/-- R132's formulas make bytes, so that no bit of their values is lost in the buffer (R10). -/
theorem toNat_reads_packConsumption (rt acc : Nat) (m : Memory) :
    ((packConsumption rt acc m).read 3).toNat = (scaleRealtime rt &&& 0xF) <<< 4 ∧
    ((packConsumption rt acc m).read 4).toNat = (scaleRealtime rt >>> 4) &&& 0xFF ∧
    ((packConsumption rt acc m).read 5).toNat =
      ((scaleRealtime rt >>> 12) &&& 0xF) ||| ((scaleAccumulated acc &&& 0xF) <<< 4) ∧
    ((packConsumption rt acc m).read 6).toNat = (scaleAccumulated acc >>> 4) &&& 0xFF ∧
    ((packConsumption rt acc m).read 7).toNat = (scaleAccumulated acc >>> 12) &&& 0xFF ∧
    ((packConsumption rt acc m).read 8).toNat = (scaleAccumulated acc >>> 20) &&& 0xFF ∧
    ((packConsumption rt acc m).read 9).toNat = (scaleAccumulated acc >>> 28) &&& 0xFF ∧
    ((packConsumption rt acc m).read 10).toNat = (scaleAccumulated acc >>> 36) &&& 0xFF := by
  obtain ⟨h3, h4, h5, h6, h7, h8, h9, h10⟩ := reads_packConsumption rt acc m
  rw [h3, h4, h5, h6, h7, h8, h9, h10]
  exact ⟨toNat_byteOf_high_nibble _, toNat_byteOf_low_byte _, toNat_byteOf_nibbles _ _, toNat_byteOf_low_byte _,
    toNat_byteOf_low_byte _, toNat_byteOf_low_byte _, toNat_byteOf_low_byte _, toNat_byteOf_low_byte _⟩

theorem exec_setConsumption {s : State} {rt acc : Nat} (hr : FitsRt s.cfg rt) (ha : FitsAcc s.cfg acc) :
    exec (.setConsumption rt acc) s = .next { s with buf := packConsumption rt acc s.buf } := if_pos ⟨hr, ha⟩

/-- Settles O29: the packed buffer, read inside the eight bytes and outside them. -/
theorem setConsumptionPacksBothReadings : Obligations.SetConsumptionPacksBothReadings := fun s rt acc hr ha =>
  ⟨_, exec_setConsumption hr ha, rfl, fun _ => read_packConsumption_other rt acc s.buf,
    toNat_reads_packConsumption rt acc s.buf⟩

/-! ### The readings read back (R136) -/

/-- The low `k` bits of a value with its next `n` bits or-ed in above them are its low `k + n` bits. -/
theorem low_bits_or_next_bits (x k n : Nat) : x % 2 ^ k ||| (x >>> k % 2 ^ n) <<< k = x % 2 ^ (k + n) := by
  rw [Nat.lor_comm, ← Nat.shiftLeft_add_eq_or_of_lt (Nat.mod_lt x (Nat.two_pow_pos k)), Nat.shiftLeft_eq,
    Nat.shiftRight_eq_div_pow, pow_add, Nat.mod_mul, Nat.add_comm, Nat.mul_comm]

/-- The low `k` bits of a value with its next byte or-ed in above them. -/
theorem low_bits_or_next_byte (x k : Nat) : x % 2 ^ k ||| (x >>> k &&& 0xFF) <<< k = x % 2 ^ (k + 8) := by
  rw [and_low_byte]
  exact low_bits_or_next_bits x k 8

/-- R136's extraction of the real-time field, from the bytes R132 packs. -/
theorem extractRealtime_packConsumption (rt acc : Nat) (m : Memory) :
    extractRealtime (packConsumption rt acc m) = scaleRealtime rt % 2 ^ 16 := by
  obtain ⟨h3, h4, h5, -⟩ := toNat_reads_packConsumption rt acc m
  have byteThree : ((packConsumption rt acc m).read 3).toNat >>> 4 = scaleRealtime rt % 2 ^ 4 := by
    rw [h3, Nat.shiftLeft_shiftRight]
    exact and_low_nibble _
  have byteFive : ((packConsumption rt acc m).read 5).toNat &&& 0xF = scaleRealtime rt >>> 12 % 2 ^ 4 := by
    rw [h5, nibbles_eq, and_low_nibble]
    omega
  rw [extractRealtime, byteThree, h4, byteFive, low_bits_or_next_byte _ 4, low_bits_or_next_bits _ 12 4]

/-- R136's extraction of the accumulated field, from the bytes R132 packs. -/
theorem extractAccumulated_packConsumption (rt acc : Nat) (m : Memory) :
    extractAccumulated (packConsumption rt acc m) = scaleAccumulated acc % 2 ^ 44 := by
  obtain ⟨-, -, h5, h6, h7, h8, h9, h10⟩ := toNat_reads_packConsumption rt acc m
  have byteFive : ((packConsumption rt acc m).read 5).toNat >>> 4 = scaleAccumulated acc % 2 ^ 4 := by
    rw [h5, nibbles_eq, Nat.shiftRight_eq_div_pow]
    omega
  rw [extractAccumulated, byteFive, h6, h7, h8, h9, h10, low_bits_or_next_byte _ 4, low_bits_or_next_byte _ 12,
    low_bits_or_next_byte _ 20, low_bits_or_next_byte _ 28, low_bits_or_next_byte _ 36]

/-- Settles O31: the low bits of each field, joined byte by byte. -/
theorem packedReadingsRoundTrip : Obligations.PackedReadingsRoundTrip := fun rt acc m =>
  ⟨extractRealtime_packConsumption rt acc m, extractAccumulated_packConsumption rt acc m⟩

end Sys2Proof.Machine
end

section
/-! PROOFS. The checksum generator (spec 42_checksum.md): the nibble sum (O32), the two bytes made of it (O33), and how large it
gets inside the block (O35) and with a 32-bit accumulated reading (O36). -/

namespace Sys2Proof.Machine

/-! ### Sum (R151) -/

theorem nibbleTotal_eq_sum (m : Memory) (n : Nat) :
    nibbleTotal m n = ((List.range n).map fun i => (m.read i).toNat % 16 + (m.read i).toNat / 16).sum := by
  induction n with
  | zero => rfl
  | succ n ih => simp [nibbleTotal, ih, nibLo_eq, nibHi_eq, List.range_succ]

theorem nibbleSum_eq_sum (m : Memory) (n : Nat) :
    nibbleSum n m = ((List.range n).map fun i => (m.read i).toNat % 16 + (m.read i).toNat / 16).sum - 2 := by
  rw [nibbleSum, nibbleTotal_eq_sum]
  rfl

theorem exec_sum {count : Nat} (h : count ≤ 13) (s : State) :
    exec (.sum count) s = .next { s with returned := some (nibbleSum count s.buf) } := if_pos h

/-- Settles O32: the recursion over the bytes is the sum over their list. -/
theorem sumAddsNibblesLessTwo : Obligations.SumAddsNibblesLessTwo := by
  intro s count h
  rw [exec_sum h, nibbleSum_eq_sum]

/-! ### calculateAndSetChecksum (R152) -/

/-- A high nibble or-ed with a low one, as R152 writes byte 11, is the byte of the two. -/
theorem byteOf_nibbles_eq_append (x y : Nat) :
    byteOf (((x &&& 0xF) <<< 4) ||| (y &&& 0xF)) = BitVec.ofNat 4 x ++ BitVec.ofNat 4 y := by
  apply BitVec.eq_of_toNat_eq
  rw [Nat.lor_comm, toNat_byteOf_nibbles, BitVec.toNat_append, Nat.lor_comm, and_low_nibble, and_low_nibble]
  rfl

theorem byteOf_low_nibble_eq_append (y : Nat) : byteOf (y &&& 0xF) = 0#4 ++ BitVec.ofNat 4 y := by
  simpa using byteOf_nibbles_eq_append 0 y

/-- The checksum bytes as slices of the sum's twelve bits: {sum[3:0], sum[11:8]} and {0, sum[7:4]}. -/
theorem reads_placeChecksum_eq_append (m : Memory) :
    (placeChecksum m).read 11 =
      (BitVec.ofInt 12 (nibbleSum 11 m)).extractLsb' 0 4 ++ (BitVec.ofInt 12 (nibbleSum 11 m)).extractLsb' 8 4 ∧
    (placeChecksum m).read 12 = 0#4 ++ (BitVec.ofInt 12 (nibbleSum 11 m)).extractLsb' 4 4 := by
  obtain ⟨byteEleven, byteTwelve⟩ := reads_placeChecksum m
  rw [byteEleven, byteTwelve, byteOf_nibbles_eq_append, byteOf_low_nibble_eq_append, sumBits_eq]
  exact ⟨rfl, rfl⟩

/-- Settles O33: the two bytes as slices of the sum, and the reads `placeChecksum` leaves. -/
theorem checksumIsPlacedNibbleSwapped : Obligations.ChecksumIsPlacedNibbleSwapped := by
  intro s
  refine ⟨{ s with buf := placeChecksum s.buf }, rfl, rfl, fun a => read_placeChecksum_other s.buf, ?_⟩
  rw [← nibbleSum_eq_sum]
  exact reads_placeChecksum_eq_append s.buf

/-! ### The range of the sum inside the block (R153) -/

theorem nibbles_le (b : Byte) : nibLo b + nibHi b ≤ 30 := by
  have := b.isLt
  rw [nibLo_eq, nibHi_eq]
  omega

theorem nibbles_le_toNat (b : Byte) : nibLo b + nibHi b ≤ b.toNat := by
  rw [nibLo_eq, nibHi_eq]
  omega

/-- Each further byte adds two nibbles of at most 15. -/
theorem nibbleTotal_bounds_of_le (m : Memory) {n k : Nat} (h : n ≤ k) :
    nibbleTotal m n ≤ nibbleTotal m k ∧ nibbleTotal m k ≤ nibbleTotal m n + 30 * (k - n) := by
  induction k, h using Nat.le_induction with
  | base => simp
  | succ k h ih =>
    have := nibbles_le (m.read k)
    rw [nibbleTotal]
    omega

section Packed

variable {m : Memory} (rt acc : Nat) (h0 : m.read 0 = 0x62#8) (h1 : m.read 1 = 0x80#8)
include h0 h1

/-- The type bytes add 16, the id at most 30, and byte 3, whose low nibble is 0, at most 15. -/
theorem nibbleTotal_packConsumption_four :
    16 ≤ nibbleTotal (packConsumption rt acc m) 4 ∧ nibbleTotal (packConsumption rt acc m) 4 ≤ 61 := by
  have typeBytes : nibbleTotal (packConsumption rt acc m) 2 = 16 := by
    simp [nibbleTotal, read_packConsumption_other, h0, h1, nibLo, nibHi]
  have byteThree : nibLo ((packConsumption rt acc m).read 3) + nibHi ((packConsumption rt acc m).read 3) ≤ 15 := by
    rw [nibLo_eq, nibHi_eq, (toNat_reads_packConsumption rt acc m).1, and_low_nibble, Nat.shiftLeft_eq]
    omega
  have id := nibbles_le ((packConsumption rt acc m).read 2)
  simp only [nibbleTotal] at typeBytes ⊢
  omega

theorem nibbleSum_packConsumption_bounds :
    14 ≤ nibbleSum 11 (packConsumption rt acc m) ∧ nibbleSum 11 (packConsumption rt acc m) ≤ 269 := by
  have four := nibbleTotal_packConsumption_four rt acc h0 h1
  have rest := nibbleTotal_bounds_of_le (packConsumption rt acc m) (n := 4) (k := 11) (by decide)
  simp only [nibbleSum, sumCorr]
  omega

end Packed

/-- Settles O35: the first four bytes, and seven more of at most 30 each. -/
theorem sumRangeInsideTheBlock : Obligations.SumRangeInsideTheBlock := fun _ rt acc =>
  nibbleSum_packConsumption_bounds rt acc

/-! ### The sum with a 32-bit accumulated reading (R153, R134) -/

/-- A value up to 0xDFAA7EF8FB has a top byte of at most 0x0D, and below a top byte of 0x0D one of at most 0xFA: these two bytes
lose the 18 that keep the sum below 256. -/
theorem nibbles_packConsumption_nine_ten (rt : Nat) {acc : Nat} (h : acc < 2 ^ 32) (m : Memory) :
    nibLo ((packConsumption rt acc m).read 9) + nibHi ((packConsumption rt acc m).read 9) +
      (nibLo ((packConsumption rt acc m).read 10) + nibHi ((packConsumption rt acc m).read 10)) ≤ 42 := by
  obtain ⟨-, -, -, -, -, -, byteNine, byteTen⟩ := toNat_reads_packConsumption rt acc m
  have bound := scaleAccumulated_le h
  rw [and_low_byte, Nat.shiftRight_eq_div_pow] at byteNine byteTen
  have top : ((packConsumption rt acc m).read 10).toNat ≤ 12 ∨
      ((packConsumption rt acc m).read 10).toNat ≤ 13 ∧ ((packConsumption rt acc m).read 9).toNat ≤ 0xFA := by omega
  have ten := nibbles_le_toNat ((packConsumption rt acc m).read 10)
  obtain low | ⟨thirteen, low⟩ := top
  · have nine := nibbles_le ((packConsumption rt acc m).read 9)
    omega
  · have nine : nibLo ((packConsumption rt acc m).read 9) + nibHi ((packConsumption rt acc m).read 9) ≤ 29 := by
      rw [nibLo_eq, nibHi_eq]
      omega
    omega

theorem nibbleSum_packConsumption_le {m : Memory} (rt : Nat) {acc : Nat} (h0 : m.read 0 = 0x62#8) (h1 : m.read 1 = 0x80#8)
    (h : acc < 2 ^ 32) : nibbleSum 11 (packConsumption rt acc m) ≤ 251 := by
  have four := nibbleTotal_packConsumption_four rt acc h0 h1
  have nine := nibbleTotal_bounds_of_le (packConsumption rt acc m) (n := 4) (k := 9) (by decide)
  have lastTwo := nibbles_packConsumption_nine_ten rt h m
  rw [nibbleSum, nibbleTotal, nibbleTotal, sumCorr]
  omega

/-- A sum of eight bits leaves the low nibble of byte 11, the sum's bits 11 to 8, at 0. -/
theorem read_placeChecksum_eleven_low_nibble {m : Memory} (nonneg : 0 ≤ nibbleSum 11 m) (lt : nibbleSum 11 m < 256) :
    ((placeChecksum m).read 11).toNat % 16 = 0 := by
  have bitsAbove : sumBits (nibbleSum 11 m) >>> 8 = 0 := Nat.shiftRight_eq_zero _ _ (by rw [sumBits]; omega)
  rw [(reads_placeChecksum m).1, Nat.lor_comm, toNat_byteOf_nibbles, nibbles_eq, bitsAbove]
  omega

/-- Settles O36: the sum of at most 251 has eight bits. -/
theorem sumBelow256AtDefaultWidths : Obligations.SumBelow256AtDefaultWidths := by
  intro m rt acc h0 h1 h
  have le := nibbleSum_packConsumption_le rt h0 h1 h
  have ge := (nibbleSum_packConsumption_bounds rt acc h0 h1).1
  exact ⟨le, read_placeChecksum_eleven_low_nibble (by omega) (by omega)⟩

end Sys2Proof.Machine
end

section
/-! PROOFS. The host commands (spec 43_commands.md). What an accepted command does (O6 to O8, O10, O27, O34) and that a presented one
waits during a frame (O11); one edge, its outputs and the block's own step (O20, O37, O45, O47); and whole runs: what is observed of
them (O50) and the command level (O57). -/

namespace Sys2Proof.Machine

/-! ### The edge that accepts a command (R170, R180) -/

theorem exec_setup_idle {s : State} (hp : s.phase = .idle) (id : Byte) :
    exec (.setup id) s = .next ((s.setupEffect id).hold 1) :=
  congrArg Host.Outcome.next (commandEdge_idle hp _)

theorem exec_send_idle {s : State} (hp : s.phase = .idle) (hc : s.configured = true) {rt acc : Nat} (hr : FitsRt s.cfg rt)
    (ha : FitsAcc s.cfg acc) : exec (.send rt acc) s = .next ((s.startFrame (messageOf rt acc s.buf)).hold 1) := by
  rw [← sendEffect_configured hc, ← commandEdge_idle hp]
  exact if_pos ⟨hr, ha⟩

theorem exec_decodeCommand_idle {s : State} {k : Command} (hp : s.phase = .idle) (hr : FitsRt s.cfg k.rt)
    (ha : FitsAcc s.cfg k.acc) : exec (decodeCommand k) s = .next ((s.commandEffect k).hold 1) := by
  rw [exec_decodeCommand hr ha, commandEdge_idle hp]

/-! ### SETUP (R171) -/

/-- Settles O6: the three bytes of `read_setup`, and its read elsewhere. -/
theorem setupConfiguresIdentity : Obligations.SetupConfiguresIdentity := by
  refine fun s id hp => ⟨_, exec_setup_idle hp id, rfl, read_setup id s.buf 0, read_setup id s.buf 1,
    read_setup id s.buf 2, fun a h0 h1 h2 => (read_setup id s.buf a).trans ?_⟩
  rw [if_neg h0, if_neg h1, if_neg h2]

/-- Of two SETUPs the buffer keeps the second alone: both write the same addresses. -/
theorem setup_buf_setup (id id' : Byte) {m : Memory} (w : m.wf = true) :
    writeId id' (writeType (writeId id (writeType m))) = writeId id' (writeType m) := by
  refine Memory.eq_of_wf (wf_writeId _ (wf_writeType (wf_writeId _ (wf_writeType w)))) (wf_writeId _ (wf_writeType w))
    fun a => ?_
  simp only [read_setup]
  split_ifs <;> rfl

/-- Settles O7, by the buffer; the other elements are kept or set to the same value. -/
theorem setupReplacesEarlierSetup : Obligations.SetupReplacesEarlierSetup := by
  intro s id id' hp w
  refine ⟨_, _, _, exec_setup_idle hp id, exec_setup_idle (s := (s.setupEffect id).hold 1) hp id',
    exec_setup_idle hp id', ?_⟩
  simp [State.setupEffect, Block.setup, State.hold, setup_buf_setup id id' w]

/-- Settles O27: the two operations' buffer is SETUP's. -/
theorem setupIsSetTypeThenSetId : Obligations.SetupIsSetTypeThenSetId := fun _ id hp =>
  ⟨_, _, _, rfl, rfl, exec_setup_idle hp id, rfl⟩

/-! ### SEND (R172) -/

theorem byteOf_low_byte (x : Nat) : byteOf (x &&& 0xFF) = BitVec.ofNat 8 x :=
  BitVec.eq_of_toNat_eq (by rw [toNat_byteOf_low_byte, and_low_byte, BitVec.toNat_ofNat])

/-- Bytes 3 to 10 of a message by R132's formulas, in quotients and remainders of the scaled readings. -/
theorem reads_messageOf_consumption (rt acc : Nat) (m : Memory) :
    (messageOf rt acc m).read 3 = BitVec.ofNat 8 ((scaleRealtime rt % 16) * 16) ∧
    (messageOf rt acc m).read 4 = BitVec.ofNat 8 (scaleRealtime rt / 2 ^ 4) ∧
    (messageOf rt acc m).read 5 =
      BitVec.ofNat 8 (scaleRealtime rt / 2 ^ 12 % 16 + (scaleAccumulated acc % 16) * 16) ∧
    ∀ i, i < 5 → (messageOf rt acc m).read (6 + i) = BitVec.ofNat 8 (scaleAccumulated acc / 2 ^ (4 + 8 * i)) := by
  refine ⟨?_, ?_, ?_, fun i hi => ?_⟩
  · rw [read_messageOf_three, and_low_nibble, Nat.shiftLeft_eq]
    rfl
  · rw [read_messageOf_four, byteOf_low_byte, Nat.shiftRight_eq_div_pow]
  · rw [read_messageOf_five, nibbles_eq, Nat.shiftRight_eq_div_pow]
    rfl
  · rw [read_messageOf_accumulated rt acc m hi, byteOf_low_byte, Nat.shiftRight_eq_div_pow]

/-- Settles O8: the bytes of the message, group by group, and its checksum over the bytes it is sent with. -/
theorem sendPacksChecksumsAndStartsFrame : Obligations.SendPacksChecksumsAndStartsFrame := by
  intro s rt acc hp hc hr ha
  obtain ⟨three, four, five, above⟩ := reads_messageOf_consumption rt acc s.buf
  refine ⟨_, exec_send_idle hp hc hr ha, rfl, fun a outside => ?_, ⟨three, four, five, above 0 (by decide),
    above 1 (by decide), above 2 (by decide), above 3 (by decide), above 4 (by decide)⟩, ?_⟩
  · exact outside.elim (read_messageOf_low rt acc s.buf) (read_messageOf_high rt acc s.buf)
  · rw [← nibbleSum_eq_sum, State.hold_buf, State.startFrame_buf, nibbleSum_messageOf]
    exact reads_placeChecksum_eq_append (packConsumption rt acc s.buf)

/-- Settles O34: `messageOf` is the two operations' composition, and the first level of every frame is high. -/
theorem sendIsPackThenChecksum : Obligations.SendIsPackThenChecksum := fun _ _ _ hp hc hr ha =>
  ⟨_, _, _, exec_setConsumption hr ha, rfl, exec_send_idle hp hc hr ha, rfl⟩

/-! ### The reserved codes (R173) -/

/-- Settles O10: both codes are the edge that raises `ERR_CMD`. -/
theorem reservedCommandsRaiseErrCmd : Obligations.ReservedCommandsRaiseErrCmd := by
  rintro s i (rfl | rfl) hp
  all_goals exact ⟨_, congrArg Host.Outcome.next (commandEdge_idle hp State.raiseErrCmd), rfl⟩

/-! ### A command during a frame (R175) -/

theorem exec_sequencerStep_tx {s : State} (hp : s.phase = .tx) : exec .sequencerStep s = .next s.sequencerEdge := by
  simp [exec, execSequencerStep, hp]

theorem exec_sequencerStep_idle {s : State} (hp : s.phase = .idle) : exec .sequencerStep s = .next s.idleEdge := by
  simp [exec, execSequencerStep, hp]

/-- A line that presents a command is no `IDLE` line, so it is the first to be carried out. -/
theorem pendingLines_of_presented {l : HostLine} (hl : l.command ≠ none) (r : List HostLine) :
    pendingLines (l :: r) = l :: r := by
  cases l
  case idle => exact absurd rfl hl
  all_goals rfl

/-- Settles O11: an instruction with a command tuple is the edge of that tuple, which in a frame is the sequencer's. -/
theorem commandsWaitWhileSending : Obligations.CommandsWaitWhileSending := by
  refine fun s hp => ⟨fun i hi wf => ?_, fun l r h hl => ⟨_, step_eq s, ?_⟩⟩
  · obtain ⟨k, hk⟩ := Option.ne_none_iff_exists'.1 hi
    obtain ⟨hr, ha⟩ := fits_of_commandOf hk wf
    rw [← decodeCommand_of_commandOf hk, exec_decodeCommand hr ha, commandEdge_tx hp, exec_sequencerStep_tx hp]
  · rw [(acceptedLineLeavesThePort s _ l r h hl (step_eq s)).2 hp, pendingLines_of_presented hl]

/-! ### One edge (R180) -/

theorem edge_eq_idleEdge {s : State} {p : Ports} (hr : p.rst = false) (hp : s.phase = .idle) (hv : p.cmdValid = false) :
    s.edge p = s.idleEdge := by
  simp [State.edge, hr, hp, hv]

/-- Settles O20: both are the idle edge, which adds a cycle to the record. -/
theorem idleEdgeChangesNothing : Obligations.IdleEdgeChangesNothing := by
  refine fun s hp => ⟨⟨_, exec_sequencerStep_idle hp, rfl⟩, fun hr hv => ⟨_, step_eq s, ?_⟩⟩
  rw [edge_eq_idleEdge hr hp hv]
  rfl

/-- Settles O45: `exec` answers the edge's state, in a frame and for an accepted command, and `step` moves the host on from there. -/
theorem stepRunsTheDecodedInstruction : Obligations.StepRunsTheDecodedInstruction := by
  refine fun s hr => ⟨fun hp => ⟨_, exec_sequencerStep_tx hp, ?_⟩, ?_⟩
  · rw [step_eq, edge_eq_sequencerEdge hp hr]
    rfl
  · rintro i hp hv rfl
    obtain ⟨hrt, hacc⟩ := Ports.command_fits s.cfg s.ports
    refine ⟨wellFormed_decodeCommand hrt hacc, _, exec_decodeCommand_idle hp hrt hacc, ?_⟩
    rw [step_eq, edge_eq_commandEffect hr hp hv]
    rfl

/-! ### The outputs (R181) -/

/-- `STATUS` bit by bit. -/
theorem status_getLsbD (b : Block) :
    b.status.getLsbD 0 = b.busy ∧ b.status.getLsbD 1 = b.configured ∧ b.status.getLsbD 2 = b.errState ∧
    b.status.getLsbD 3 = b.errCmd := by
  have bits : ∀ e3 e2 e1 e0 : Bit,
      let v := BitVec.ofBool e3 ++ BitVec.ofBool e2 ++ BitVec.ofBool e1 ++ BitVec.ofBool e0
      v.getLsbD 0 = e0 ∧ v.getLsbD 1 = e1 ∧ v.getLsbD 2 = e2 ∧ v.getLsbD 3 = e3 := by decide
  exact bits b.errCmd b.errState b.configured b.busy

/-- `PHASE` is `IDLE` or `TX`, so the block is ready or busy (R31, R71). -/
theorem cmdReady_eq_not_busy (b : Block) : b.cmdReady = !b.busy := by
  cases h : b.phase <;> simp [Block.cmdReady, Block.busy, h]

/-- Settles O37: the bits of `STATUS`, and the two ranges of `DBG_ADDR`. -/
theorem outputsInEveryCycle : Obligations.OutputsInEveryCycle := by
  intro s p
  obtain ⟨busy, configured, errState, errCmd⟩ := status_getLsbD s.toBlock
  exact ⟨rfl, rfl, busy, configured, errState, errCmd, (cmdReady_eq_not_busy s.toBlock).trans (congrArg not busy.symm),
    fun inside => if_pos inside, fun above => if_neg (Nat.not_le.2 above)⟩

/-! ### The block's own step (R33, R180) -/

theorem commandEffect_toBlock (s : State) (k : Command) : (s.commandEffect k).toBlock = s.toBlock.command k := by
  unfold State.commandEffect Block.command
  split_ifs
  · rfl
  · exact s.sendEffect_toBlock k.rt k.acc
  · rfl

/-- The edge of the machine is the edge of its block, the parameters and port values being the block's arguments. -/
theorem edge_toBlock (s : State) (p : Ports) : (s.edge p).toBlock = blockStep s.cfg p s.toBlock := by
  unfold blockStep
  rcases edge_cases s p with ⟨hr, e⟩ | ⟨hr, hp, e⟩ | ⟨hr, hp, hv, e⟩ | ⟨hr, hp, hv, e⟩
  · simp [e, hr]
  · simp [e, hr, hp]
  · simp [e, hr, hp, hv, commandEffect_toBlock]
  · simp [e, hr, hp, hv]

/-- An accepted command writes the block and the record alone. -/
theorem commandEffect_frame (s : State) (k : Command) :
    s.commandEffect k = { s with toBlock := (s.commandEffect k).toBlock, line := (s.commandEffect k).line } := by
  rcases commandEffect_cases s k with ⟨-, e⟩ | ⟨-, -, e⟩ | ⟨-, -, e⟩ | ⟨-, -, e⟩ <;> rw [e] <;> rfl

/-- An edge writes the block and the record alone; the host's list moves on after it. -/
theorem edge_frame (s : State) (p : Ports) :
    s.edge p = { s with toBlock := (s.edge p).toBlock, line := (s.edge p).line } := by
  rcases edge_cases s p with ⟨-, e⟩ | ⟨-, -, e⟩ | ⟨-, -, -, e⟩ | ⟨-, -, -, e⟩ <;> rw [e]
  · rfl
  · rw [sequencerEdge_frame]
  · rw [commandEffect_frame]
    rfl
  · rfl

@[simp] theorem edge_cfg (s : State) (p : Ports) : (s.edge p).cfg = s.cfg := by rw [edge_frame]

@[simp] theorem edge_returned (s : State) (p : Ports) : (s.edge p).returned = s.returned := by rw [edge_frame]

/-- A host that drives given port values takes the block where the block's own run takes it. -/
theorem runFor_ports (s : State) (ins : List Ports) :
    ∃ t, runFor ins.length { s with host := ins.map .ports } = .next t ∧ t.toBlock = blockRun s.cfg ins s.toBlock := by
  induction ins generalizing s with
  | nil => exact ⟨_, runFor_zero _, rfl⟩
  | cons p ins ih =>
    obtain ⟨t, run, block⟩ := ih (s.edge p)
    refine ⟨t, ?_, ?_⟩
    · rw [List.length_cons, List.map_cons, runFor, step_ports]
      exact run
    · rw [block, edge_cfg, edge_toBlock, blockRun_cons]

/-- Settles O47: the edge's state, and the induction over the port values. -/
theorem everyStateHasANextState : Obligations.EveryStateHasANextState :=
  ⟨fun s => ⟨_, step_eq s, edge_toBlock s s.ports, edge_cfg s s.ports, edge_returned s s.ports⟩, runFor_ports⟩

/-! ### The record of the line (R112, R183, log 6) -/

@[simp] theorem txHistory_cons (g : Segment) (r : List Segment) : txHistory (g :: r) = txHistory r ++ g.cycleLevels := by
  simp [txHistory]

/-- Opening a segment records no cycle. -/
@[simp] theorem cycleLevels_zero (l : Bit) : Segment.cycleLevels ⟨l, 0⟩ = [] := rfl

@[simp] theorem cycleLevels_one (l : Bit) : Segment.cycleLevels ⟨l, 1⟩ = [l] := rfl

/-- Holding the line records its level once for each cycle, whether a segment grows or begins. -/
theorem txHistory_holdLine (l : Bit) (n : Nat) (r : List Segment) :
    txHistory (holdLine l n r) = txHistory r ++ List.replicate n l := by
  cases r with
  | nil => simp [holdLine, Segment.cycleLevels]
  | cons g r =>
    by_cases grows : g.level = l <;> simp [holdLine, Segment.cycleLevels, grows]

/-- An accepted command may open a segment, and records no cycle before its edge. -/
theorem txHistory_commandEffect (s : State) (k : Command) : txHistory (s.commandEffect k).line = txHistory s.line := by
  rcases commandEffect_cases s k with ⟨-, e⟩ | ⟨-, -, e⟩ | ⟨-, -, e⟩ | ⟨-, -, e⟩ <;> rw [e]
  · rfl
  · rfl
  · simp
  · rfl

theorem txHistory_edge (s : State) (p : Ports) : txHistory (s.edge p).line = txHistory s.line ++ [(s.edge p).tx] := by
  rcases edge_cases s p with ⟨-, e⟩ | ⟨-, -, e⟩ | ⟨-, -, -, e⟩ | ⟨-, -, -, e⟩ <;> rw [e]
  · exact txHistory_holdLine false 1 s.line
  · rcases sequencerEdge_cases s with ⟨-, e⟩ | ⟨-, -, e⟩ | ⟨-, -, e⟩ <;> rw [e]
    · exact txHistory_holdLine s.tx 1 s.line
    · simp
    · simp
  · rw [State.hold_line, txHistory_holdLine, txHistory_commandEffect]
    rfl
  · exact txHistory_holdLine s.tx 1 s.line

/-! ### Runs, and where they end (R183) -/

/-- The one next state of a state (R180). -/
def State.next (s : State) : State := (s.edge s.ports).hostFrom s

/-- A run of some edges is as many next states. -/
theorem runFor_eq_iterate (n : Nat) (s : State) : runFor n s = .next (State.next^[n] s) := by
  induction n generalizing s with
  | zero => rfl
  | succ n ih => rw [runFor_succ, Function.iterate_succ_apply]; exact ih s.next

theorem runFor_eq_next_iff {n : Nat} {s t : State} : runFor n s = .next t ↔ State.next^[n] s = t := by
  simp [runFor_eq_iterate]

/-- Each edge of a run adds the value of `TX` after it to the record. -/
theorem txHistory_iterate_next (n : Nat) (s : State) :
    txHistory (State.next^[n] s).line = txHistory s.line ++ (List.range n).map fun i => (State.next^[i + 1] s).tx := by
  induction n with
  | zero => simp
  | succ n ih =>
    have last : txHistory (State.next^[n + 1] s).line = txHistory (State.next^[n] s).line ++ [(State.next^[n + 1] s).tx] := by
      rw [Function.iterate_succ_apply']
      exact txHistory_edge _ _
    rw [last, ih, List.range_succ, List.map_append, List.append_assoc]
    rfl

/-- The program is done after edge `k`, and after no edge before it (R183). -/
def State.DoneFirstAt (s : State) (k : Nat) : Prop :=
  1 ≤ k ∧ (State.next^[k] s).programDone = true ∧ ∀ m, 1 ≤ m → m < k → (State.next^[m] s).programDone = false

/-- The first done edge is the next one, or else the first done edge from there. -/
theorem doneFirstAt_succ_iff (s : State) (k : Nat) :
    s.DoneFirstAt (k + 1) ↔ if s.next.programDone = true then k = 0 else s.next.DoneFirstAt k := by
  split_ifs with now
  · constructor
    · rintro ⟨-, -, before⟩
      by_contra later
      exact Bool.false_ne_true ((before 1 le_rfl (by omega)).symm.trans now)
    · rintro rfl
      exact ⟨le_rfl, now, by omega⟩
  · constructor
    · rintro ⟨-, done, before⟩
      have later : k ≠ 0 := by rintro rfl; exact now done
      exact ⟨by omega, done, fun m hm hk => before (m + 1) (by omega) (by omega)⟩
    · rintro ⟨-, done, before⟩
      refine ⟨by omega, done, fun m hm hk => ?_⟩
      match m, hm with
      | 1, _ => exact Bool.eq_false_iff.2 now
      | m + 2, _ => exact before (m + 1) (by omega) (by omega)

theorem doneFirstAt_zero (s : State) : ¬s.DoneFirstAt 0 := fun h => absurd h.1 (by decide)

/-- A run ends at its first done edge, where that is one of its edges. -/
theorem runToEnd_eq_some_iff (fuel : Nat) (s t : State) :
    runToEnd fuel s = some t ↔ ∃ k ≤ fuel, s.DoneFirstAt k ∧ State.next^[k] s = t := by
  induction fuel generalizing s with
  | zero => simp [runToEnd_zero, doneFirstAt_zero]
  | succ fuel ih =>
    have fromNext : (∃ k ≤ fuel + 1, s.DoneFirstAt k ∧ State.next^[k] s = t) ↔
        ∃ k ≤ fuel, s.DoneFirstAt (k + 1) ∧ State.next^[k] s.next = t := by
      constructor
      · rintro ⟨_ | k, hk, done, run⟩
        · exact absurd done (doneFirstAt_zero s)
        · exact ⟨k, by omega, done, run⟩
      · rintro ⟨k, hk, done, run⟩
        exact ⟨k + 1, by omega, done, run⟩
    have unfolded : runToEnd (fuel + 1) s = if s.next.programDone = true then some s.next else runToEnd fuel s.next :=
      runToEnd_succ fuel s
    rw [fromNext, unfolded]
    simp only [doneFirstAt_succ_iff]
    split_ifs
    · simp
    · exact ih s.next

/-- `DBG_DATA` is observed at every `DBG_ADDR`. -/
theorem getElem?_observe_dbg (s t : State) (a : BitVec 4) : (s.observe t).dbg[a.toNat]? = some (t.dbgData a) := by
  simp [State.observe, a.isLt]

/-- Settles O50: the record of a run is `TX` after each of its edges, as many as there are to the first done edge. -/
theorem observationOfARun : Obligations.ObservationOfARun := by
  refine ⟨fun s t h => ?_, fun fuel s t => ?_, fun fuel p s o h => ?_⟩
  · rw [eq_of_step h]
    exact txHistory_edge s s.ports
  · rw [runToEnd_eq_some_iff]
    constructor
    · rintro ⟨k, hk, ⟨pos, done, before⟩, rfl⟩
      refine ⟨k, pos, hk, runFor_eq_iterate k s, done, fun m u hm hmk hu => ?_⟩
      rw [← runFor_eq_next_iff.1 hu]
      exact before m hm hmk
    · rintro ⟨k, pos, hk, run, done, before⟩
      obtain rfl := runFor_eq_next_iff.1 run
      exact ⟨k, hk, ⟨pos, done, fun m hm hmk => before m _ hm hmk (runFor_eq_iterate m s)⟩, rfl⟩
  · obtain ⟨t, ended, rfl⟩ := Option.map_eq_some_iff.1 h
    obtain ⟨k, -, -, run⟩ := (runToEnd_eq_some_iff _ _ _).1 ended
    have txs : ((s.startRun p).observe t).txs = (List.range k).map fun i => (State.next^[i + 1] (s.startRun p)).tx := by
      rw [State.observe, ← run, txHistory_iterate_next]
      rfl
    have length : ((s.startRun p).observe t).txs.length = k := by simp [txs]
    refine ⟨ended, ?_, fun i hi => ⟨_, runFor_eq_iterate _ _, ?_⟩, rfl, getElem?_observe_dbg _ t⟩
    · rw [length]
      exact runFor_eq_next_iff.2 run
    · rw [length] at hi
      simp [txs, hi]

/-! ### The command level (R182) -/

/-- A whole frame without reset: the block is as at its start but idle and low, and the record has the waveform and one low cycle
(R109, R111, R112). -/
theorem runFor_wholeFrame {s : State} (hT : 1 ≤ s.cfg.tHalf) (start : s.FrameStart)
    (noReset : s.NoResetFor (236 * s.cfg.tHalf)) :
    ∃ u, runFor (236 * s.cfg.tHalf) s = .next u ∧
      u.toBlock = { s.toBlock with phase := .idle, seg := 0#8, cnt := 0, tx := false } ∧
      ∀ r, s.line = ⟨true, 1⟩ :: r → u.line = ⟨false, 1⟩ :: ((waveform s.cfg.tHalf s.buf).reverse ++ r) := by
  obtain ⟨t, run, inFrame⟩ := runFor_segment start (noReset.mono (Nat.sub_le _ 1)) (k := 235) (j := s.cfg.tHalf - 1)
    (by omega) (by omega)
  have edges : 236 * s.cfg.tHalf = 235 * s.cfg.tHalf + (s.cfg.tHalf - 1) + 1 := by omega
  rw [edges] at noReset ⊢
  have portsLow : t.ports.rst = false := (noResetFor_succ.1 (noReset.after run)).1
  have sending : t.phase = .tx := inFrame.phase_eq.trans start.1
  refine ⟨_, runFor_add_one run, ?_, fun r hr => inFrame.line_after_last (by omega) start.1 hr t.ports⟩
  rw [State.hostFrom_toBlock, edge_eq_sequencerEdge sending portsLow,
    sequencerEdge_finish (inFrame.cnt_lt_iff.not.2 (by omega)) (by rw [inFrame.seg_toNat] <;> omega), inFrame.block]
  rfl

/-- The table's row for an accepted command: one edge that opens no segment, or the start of a frame, by what the command does. -/
theorem commandLevel_cases {s : State} (quiet : s.Quiet) (k : Command) :
    ((s.commandEffect k).Quiet ∧ (s.commandEffect k).line = s.line ∧
      commandLevel s.cfg s.abs k = { after := (s.commandEffect k).abs, wave := [], distance := 1 }) ∨
    ∃ m, s.commandEffect k = s.startFrame m ∧
      commandLevel s.cfg s.abs k =
        { after := { s.abs with buf := m }, wave := waveform s.cfg.tHalf m, distance := 236 * s.cfg.tHalf + 1 } := by
  unfold commandLevel
  rcases commandEffect_cases s k with ⟨op, e⟩ | ⟨op, hc, e⟩ | ⟨op, hc, e⟩ | ⟨notSetup, notSend, e⟩ <;> rw [e]
  · exact .inl ⟨quiet, rfl, by rw [if_pos op]; rfl⟩
  · exact .inl ⟨quiet, rfl, by simp [op, State.abs, hc, Block.raiseErrState]⟩
  · exact .inr ⟨_, rfl, by simp [op, State.abs, hc, nSeg]⟩
  · exact .inl ⟨quiet, rfl, by rw [if_neg notSetup, if_neg notSend]; rfl⟩

/-- Settles O57: a command of one edge ends there; after a SEND that starts a frame comes the whole frame. -/
theorem commandLevelIsExact : Obligations.CommandLevelIsExact := by
  intro s k ⟨_, _, hT⟩ quiet hr ha
  have accepted := exec_decodeCommand_idle quiet.1 hr ha
  rcases commandLevel_cases quiet k with ⟨quiet', line, row⟩ | ⟨m, starts, row⟩ <;> rw [row]
  · refine ⟨_, _, accepted, runFor_zero _, quiet', rfl, ?_⟩
    have low : (s.commandEffect k).tx = false := quiet'.2.1
    simp [txHistory_holdLine, line, low]
  · rw [starts] at accepted
    have noReset : State.NoReset { (s.startFrame m).hold 1 with host := [] } := nofun
    obtain ⟨u, run, block, line⟩ := runFor_wholeFrame hT (s := { (s.startFrame m).hold 1 with host := [] })
      ⟨rfl, rfl, rfl, rfl⟩ (noResetFor_of_noReset noReset _)
    refine ⟨_, u, accepted, run, ?_, ?_, ?_⟩
    · simp [State.Quiet, block]
    · simp [State.abs, block, Block.startFrame]
    · have record : u.line = ⟨false, 1⟩ :: ((waveform s.cfg.tHalf m).reverse ++ s.line) := line s.line rfl
      simp [record, txHistory]

end Sys2Proof.Machine
end

section
/-! PROOFS. Errors (spec 60_exceptions.md): the SEND before configuration (O9), and when a state and a run are faulted (O41). -/

namespace Sys2Proof.Machine

/-! ### A SEND before configuration (R200) -/

theorem exec_send_unconfigured {s : State} (hp : s.phase = .idle) (hc : s.configured = false) {rt acc : Nat}
    (hr : FitsRt s.cfg rt) (ha : FitsAcc s.cfg acc) : exec (.send rt acc) s = .next (s.raiseErrState.hold 1) := by
  rw [← sendEffect_unconfigured hc rt acc, ← commandEdge_idle hp]
  exact if_pos ⟨hr, ha⟩

/-- Settles O9: the edge raises `ERR_STATE` and holds the line for its cycle. -/
theorem sendBeforeSetupRaisesErrState : Obligations.SendBeforeSetupRaisesErrState := fun _ _ _ hp hc hr ha =>
  ⟨_, exec_send_unconfigured hp hc hr ha, rfl⟩

/-! ### Faulted states (R205, log 16) -/

/-- An accepted command faults the state unless it is a SETUP, or a SEND in the Configured state (R200, R201). -/
theorem commandEffect_faulted (s : State) (k : Command) :
    (s.commandEffect k).faulted = (s.faulted || (k.op != 0b01#2 && !(k.op == 0b10#2 && s.configured))) := by
  unfold State.faulted
  rcases commandEffect_cases s k with ⟨op, e⟩ | ⟨op, hc, e⟩ | ⟨op, hc, e⟩ | ⟨notSetup, notSend, e⟩ <;> rw [e]
  · rw [State.setupEffect_errState, State.setupEffect_errCmd]; simp [op]
  · rw [State.raiseErrState_errState]; simp [op, hc]
  · rw [State.startFrame_errState, State.startFrame_errCmd]; simp [op, hc]
  · rw [State.raiseErrCmd_errCmd]; simp [notSetup, notSend]

/-- Being faulted is a sticky flag: reset alone clears it, an accepted command alone raises it. -/
theorem edge_faulted (s : State) (p : Ports) :
    (s.edge p).faulted = (!p.rst && (s.faulted || (s.toBlock.accepts p &&
      (p.cmdOp != 0b01#2 && !(p.cmdOp == 0b10#2 && s.configured))))) :=
  edge_stickyFlag (flag := fun b => b.errState || b.errCmd)
    (raisedBy := fun b k => k.op != 0b01#2 && !(k.op == 0b10#2 && b.configured)) rfl (fun t b => by simp)
    commandEffect_faulted s p

/-! ### Faulted runs (R205) -/

/-- A flag rises in a run exactly when it rises at one of the run's edges. -/
theorem errorRisesIn_iff (n : Nat) (s : State) :
    errorRisesIn n s = true ↔ ∃ i < n, errorRises (State.next^[i] s) (State.next^[i] s).next = true := by
  induction n generalizing s with
  | zero => simp [errorRisesIn_zero]
  | succ n ih =>
    have unfolded : errorRisesIn (n + 1) s = (errorRises s s.next || errorRisesIn n s.next) := errorRisesIn_succ n s
    rw [unfolded, Bool.or_eq_true, ih, Nat.exists_lt_succ_left]
    rfl

/-- Settles O41: the sticky flag of `edge_faulted`, and the edges of a run as the next states of its start. -/
theorem faultedAfterAnEdge : Obligations.FaultedAfterAnEdge := by
  refine ⟨fun s t h => ?_, fun fuel p s o h => ?_⟩
  · have flag : t.faulted = (s.edge s.ports).faulted := by rw [eq_of_step h]; rfl
    rw [flag, edge_faulted]
    simp [State.accepts, imp_iff_not_or]
  · obtain ⟨t, -, rfl⟩ := Option.map_eq_some_iff.1 h
    refine (errorRisesIn_iff _ _).trans (exists_congr fun i => ?_)
    constructor
    · rintro ⟨hi, rises⟩
      exact ⟨_, _, hi, runFor_eq_iterate i _, step_eq _, (errorRises_iff _ _).1 rises⟩
    · rintro ⟨u, v, hi, run, edge, rises⟩
      obtain rfl := runFor_eq_next_iff.1 run
      rw [eq_of_step edge] at rises
      exact ⟨hi, (errorRises_iff _ _).2 rises⟩

end Sys2Proof.Machine
end

section
/-! PROOFS. Reset and hazards (spec 70_reset_and_hazards.md): the edge with `RST` = 1 (O43), and the one low cycle between a frame
and the SEND that waits for it (O59). -/

namespace Sys2Proof.Machine

/-! ### A reset edge (R220) -/

theorem edge_eq_resetEdge (s : State) {p : Ports} (hr : p.rst = true) : s.edge p = s.resetEdge :=
  if_pos hr

/-- Settles O43: the edge is the reset edge, whatever the phase and the command on the port. -/
theorem resetEdgeClearsEverything : Obligations.ResetEdgeClearsEverything := by
  refine fun s hr => ⟨_, step_eq s, ?_⟩
  rw [edge_eq_resetEdge s hr]
  rfl

/-! ### The gap between two frames (R109, R175, R235) -/

/-- What a waiting SEND puts on the port (R78). -/
theorem ports_of_send {s : State} {rt acc : Nat} {r : List HostLine} (h : s.host = .send rt acc :: r) :
    s.ports = .present { op := 0b10#2, id := 0#8, rt := rt, acc := acc } := by
  rw [State.ports, h]
  rfl

/-- The last edge of a frame makes the block idle and the line low, and a SEND that waits stays on its port (R109, R175). -/
theorem step_last_of_frame_of_send {s : State} (hp : s.phase = .tx) (lastCycle : ¬s.cnt < s.cfg.tHalf - 1)
    (lastSegment : ¬s.seg.toNat < 235) {rt acc : Nat} {r : List HostLine} (h : s.host = .send rt acc :: r) :
    ∃ t, step s = .next t ∧ t.tx = false ∧ t.phase = .idle ∧ t.configured = s.configured ∧ t.host = .send rt acc :: r := by
  have ended : s.edge s.ports = s.sequencerEdge := edge_eq_sequencerEdge hp (by rw [ports_of_send h]; rfl)
  rw [sequencerEdge_finish lastCycle lastSegment] at ended
  have presented : pendingLines s.host = .send rt acc :: r := h ▸ pendingLines_of_presented (l := .send rt acc) nofun r
  refine ⟨_, step_eq s, ?_, ?_, ?_, (acceptedLineLeavesThePort s _ _ r presented nofun (step_eq s)).2 hp⟩
  all_goals rw [ended]; rfl

/-- A SEND that waits for a configured idle block starts its frame at the next edge, high, and leaves the host's list (R71, R172). -/
theorem step_idle_of_send {s : State} (hp : s.phase = .idle) (hc : s.configured = true) {rt acc : Nat} {r : List HostLine}
    (h : s.host = .send rt acc :: r) : ∃ t, step s = .next t ∧ t.tx = true ∧ t.phase = .tx ∧ t.host = r := by
  have started : s.edge s.ports = (s.sendEffect (rt % 2 ^ s.cfg.wRt) (acc % 2 ^ s.cfg.wAcc)).hold 1 := by
    rw [ports_of_send h, edge_eq_commandEffect rfl hp rfl]
    rfl
  rw [sendEffect_configured hc] at started
  have presented : pendingLines s.host = .send rt acc :: r := h ▸ pendingLines_of_presented (l := .send rt acc) nofun r
  refine ⟨_, step_eq s, ?_, ?_, (acceptedLineLeavesThePort s _ _ r presented nofun (step_eq s)).1 hp⟩
  all_goals rw [started]; rfl

/-- Settles O59: the frame's last edge leaves the SEND to an idle block, still configured, which accepts it at the next edge. -/
theorem shortestGapIsOneCycle : Obligations.ShortestGapIsOneCycle := by
  intro s rt acc r hp hc lastCycle lastSegment h
  obtain ⟨t, ends, low, idle, configured, waits⟩ := step_last_of_frame_of_send hp lastCycle lastSegment h
  obtain ⟨u, accepts, high, sending, left⟩ := step_idle_of_send idle (configured.trans hc) waits
  exact ⟨t, u, ends, low, idle, waits.trans h.symm, accepts, high, sending, left⟩

end Sys2Proof.Machine
end
